-- ==== Sys2Proof/Word.lean ====
section
/-! DEFINITION. The words of the block's ports (spec/30_encoding.md R70, R71, R77, R80, R82). -/

namespace Sys2Proof

/-- A byte (R7): a Transaction Buffer byte, a device address, register or data operand. -/
abbrev Byte := BitVec 8

/-- A request word (R71): op 35:32, a 31:24, r 23:16, n 15:0. -/
abbrev RequestWord := BitVec 36

/-- An event word (R77): coll 9, nack 8, rxb 7:0. -/
abbrev EventWord := BitVec 10

/-- A command word (R80): kind 10:8, txb 7:0. -/
abbrev CommandWord := BitVec 11

/-- The word of a response (R82): code 11:8, val 7:0. -/
abbrev ResponseWord := BitVec 12

/-- One item as it stands on an input port (R70): a request word with the data vector beside it, or an
event word. A step takes one request or one event, never both. -/
inductive PortInput where
  | request (word : RequestWord) (data : List Byte)
  | event (word : EventWord)
  deriving DecidableEq, Repr

end Sys2Proof
end

