-- ==== Sys2Proof/Config.lean ====
section
/-! DEFINITION. What the implementation fixes (spec/00_scope.md R6) and the free values. Nothing here that the
spec leaves open has a body: no proof can know its value. -/

namespace Sys2Proof

/-- `CFG` (R6, R139): the configuration value handed to the Bus Controller at ENABLE. The core reads nothing in
it. The spec gives no width for its parts, so they are numbers without a bound (assumption 12). -/
structure Cfg where
  baud     : Nat
  slewRate : Bool
  priority : Nat
  deriving DecidableEq, Repr, Inhabited

/-- The parameters of one run of one core instance (R6): the capacity `C`, the policy `STAY`, `SPURIOUS_EVENTS`
and `CFG`. `inst` is the instance's number among the `N_INST` (R217): no rule reads it, it only keeps the free
power-on bytes of two instances apart. -/
structure Params where
  C        : Nat
  stay     : Bool
  spurious : Bool
  cfg      : Cfg
  inst     : Nat
  deriving DecidableEq, Repr

/-- `C`: OPEN, any natural number (R6, D2). -/
opaque Config.capacity : Nat

/-- `STAY`, the `stayInErrorState` policy flag: OPEN (R6, D3). -/
opaque Config.stayInErrorState : Bool

/-- `SPURIOUS_EVENTS`: OPEN (R6, D33). -/
opaque Config.spuriousEvents : Bool

/-- `CFG` of each instance: OPEN (R6, D42). -/
opaque Config.cfg : Nat → Cfg

/-- How many instances there are beside the first: OPEN (R6, D38). -/
opaque Config.furtherInstances : Nat

/-- `N_INST`: OPEN, at least 1 (R6). -/
def Config.nInst : Nat := Config.furtherInstances + 1

/-- FREE VALUE. What Transaction Buffer byte `i` of instance `inst` holds at power-on, before anything has
written it: any byte (R41, R230; spec/93_implementation_defined.md item 1). -/
opaque Config.powerOnByte : Nat → Nat → Byte

/-- The parameters of instance `inst`: one capacity and one policy for all, each its own `CFG` (R217). -/
def Config.params (inst : Nat) : Params where
  C := Config.capacity
  stay := Config.stayInErrorState
  spurious := Config.spuriousEvents
  cfg := Config.cfg inst
  inst := inst

end Sys2Proof
end

