-- ==== Sys2Proof/Syntax.lean ====
section
/-! DEFINITION. The operations of the block: one constructor per row of spec/opcode_table.json. -/

namespace Sys2Proof

/-- The eleven foreground operations (spec/30_encoding.md R73) and the hardware event (R77). Operands are bytes,
16-bit counts, flags and the data vector, as R71, R74, R75 and R77 give them. -/
inductive Instr where
  /-- WRITE_BYTE `a, r, d` (R103). -/
  | writeByte (a r d : Byte)
  /-- WRITE_BYTES `a, r, D` (R102); `len` is the vector's length (R75). -/
  | writeBytes (a r : Byte) (data : List Byte)
  /-- READ_BYTE `a, r` (R105). -/
  | readByte (a r : Byte)
  /-- READ_BYTES `a, r, count` (R104). -/
  | readBytes (a r : Byte) (count : BitVec 16)
  /-- FETCH_RESULT `bufferLen` (R130). -/
  | fetchResult (bufferLen : BitVec 16)
  /-- RESET (R132). -/
  | reset
  /-- IS_BUSY (R133). -/
  | isBusy
  /-- ENABLE (R134). -/
  | enable
  /-- DISABLE (R135). -/
  | disable
  /-- GET_ERROR (R136). -/
  | getError
  /-- GET_STATE (R137). -/
  | getState
  /-- EVENT: the Bus Controller's "operation complete" signal (R77, R160). -/
  | event (coll nack : Bool) (rxb : Byte)
  deriving DecidableEq, Repr

end Sys2Proof
end

