-- ==== Sys2Proof/WellFormed.lean ====
section
/-! DEFINITION. Which terms of `Instr` an encoding spells. -/

namespace Sys2Proof

/-- The one limit the types do not carry: `len` is a 16-bit operand (spec/00_scope.md R7, spec/30_encoding.md
R71), so a WRITE_BYTES data vector holds at most 65535 bytes. -/
def Instr.wellFormed : Instr → Bool
  | .writeByte _ _ _ => true
  | .writeBytes _ _ data => decide (data.length < 2 ^ 16)
  | .readByte _ _ => true
  | .readBytes _ _ _ => true
  | .fetchResult _ => true
  | .reset => true
  | .isBusy => true
  | .enable => true
  | .disable => true
  | .getError => true
  | .getState => true
  | .event _ _ _ => true

/-- A well-formed instruction is one that some request word with its data vector, or some event word, spells. -/
abbrev Instr.WellFormed (i : Instr) : Prop := i.wellFormed = true

end Sys2Proof
end

