-- ==== Sys2Proof/Decode.lean ====
section
/-! DEFINITION. From the words on the ports to an instruction, total and rejecting by name, and back
(spec/30_encoding.md R71 to R79, R87). -/

namespace Sys2Proof

/-- Why an item on the request port spells no operation (R76). -/
inductive DecodeError where
  /-- `op` is 0x0 or 0xC to 0xF (R73, R76). -/
  | reservedOpcode (op : BitVec 4)
  /-- A field that R74 marks 0 is not zero. -/
  | nonzeroField (op : BitVec 4)
  /-- A WRITE_BYTES whose data vector does not hold `len` bytes (R75). -/
  | dataLength (len given : Nat)
  /-- A data vector beside a word that R74 gives none. -/
  | strayData (op : BitVec 4)
  deriving DecidableEq, Repr

/-- `op`, bits 35:32 (R71). -/
def reqOp (w : RequestWord) : BitVec 4 := w.extractLsb' 32 4
/-- `a`, bits 31:24 (R71). -/
def reqA (w : RequestWord) : Byte := w.extractLsb' 24 8
/-- `r`, bits 23:16 (R71). -/
def reqR (w : RequestWord) : Byte := w.extractLsb' 16 8
/-- `n`, bits 15:0 (R71). -/
def reqN (w : RequestWord) : BitVec 16 := w.extractLsb' 0 16
/-- `n[15:8]` (R74). -/
def reqNHigh (w : RequestWord) : Byte := w.extractLsb' 8 8
/-- `n[7:0]` (R74). -/
def reqNLow (w : RequestWord) : Byte := w.extractLsb' 0 8

/-- The instruction of a word all of whose remaining conditions are in `ok`: accepted only if the fields R74 marks
0 are zero and no data vector stands beside the word. DESIGN CHOICE (assumption 11): the latter is no ground of R76. -/
def plainRequest (op : BitVec 4) (zeroFields : Bool) (data : List Byte) (i : Instr) : Except DecodeError Instr :=
  if zeroFields = false then .error (.nonzeroField op)
  else if data ≠ [] then .error (.strayData op)
  else .ok i

/-- A request (R73, R74, R75, R76). -/
def decodeRequest (w : RequestWord) (data : List Byte) : Except DecodeError Instr :=
  let op := reqOp w
  let allZero := decide (reqA w = 0) && decide (reqR w = 0) && decide (reqN w = 0)
  match op.toNat with
  | 0x1 => plainRequest op (decide (reqNHigh w = 0)) data (.writeByte (reqA w) (reqR w) (reqNLow w))
  | 0x2 =>
    if data.length = (reqN w).toNat then .ok (.writeBytes (reqA w) (reqR w) data)
    else .error (.dataLength (reqN w).toNat data.length)
  | 0x3 => plainRequest op (decide (reqN w = 0)) data (.readByte (reqA w) (reqR w))
  | 0x4 => plainRequest op true data (.readBytes (reqA w) (reqR w) (reqN w))
  | 0x5 => plainRequest op (decide (reqA w = 0) && decide (reqR w = 0)) data (.fetchResult (reqN w))
  | 0x6 => plainRequest op allZero data .reset
  | 0x7 => plainRequest op allZero data .isBusy
  | 0x8 => plainRequest op allZero data .enable
  | 0x9 => plainRequest op allZero data .disable
  | 0xA => plainRequest op allZero data .getError
  | 0xB => plainRequest op allZero data .getState
  | _ => .error (.reservedOpcode op)

/-- An event (R77). All 1024 words are legal (R79). -/
def decodeEvent (w : EventWord) : Instr :=
  .event (w.getLsbD 9) (w.getLsbD 8) (w.extractLsb' 0 8)

/-- One item of an input port (R70). The port says which of the two layouts holds; no mode bit changes decoding
(R87). -/
def decode : PortInput → Except DecodeError Instr
  | .request w data => decodeRequest w data
  | .event w => .ok (decodeEvent w)

/-- The layout of R71. -/
def requestWord (op : BitVec 4) (a r : Byte) (n : BitVec 16) : RequestWord := op ++ a ++ r ++ n

/-- The layout of R77. -/
def eventWord (coll nack : Bool) (rxb : Byte) : EventWord := BitVec.ofBool coll ++ BitVec.ofBool nack ++ rxb

/-- The port item that spells an instruction (R73, R74, R75, R77). -/
def encode : Instr → PortInput
  | .writeByte a r d => .request (requestWord 0x1 a r (0#8 ++ d)) []
  | .writeBytes a r data => .request (requestWord 0x2 a r (BitVec.ofNat 16 data.length)) data
  | .readByte a r => .request (requestWord 0x3 a r 0) []
  | .readBytes a r count => .request (requestWord 0x4 a r count) []
  | .fetchResult bufferLen => .request (requestWord 0x5 0 0 bufferLen) []
  | .reset => .request (requestWord 0x6 0 0 0) []
  | .isBusy => .request (requestWord 0x7 0 0 0) []
  | .enable => .request (requestWord 0x8 0 0 0) []
  | .disable => .request (requestWord 0x9 0 0 0) []
  | .getError => .request (requestWord 0xA 0 0 0) []
  | .getState => .request (requestWord 0xB 0 0 0) []
  | .event coll nack rxb => .event (eventWord coll nack rxb)

/-- The port item whose bits are `w`, numbered as spec/opcode_table.json numbers them. A row of fewer than 36 bits
is the 10-bit event word, a longer one the 36-bit request word, with a data vector of zeros where the word is a
WRITE_BYTES (every bit above the word is 0). `none` where `w` has a bit the port has no wire for. DESIGN CHOICE
(assumption 14). -/
def tablePortInput (nbits w : Nat) : Option PortInput :=
  if nbits < 36 then
    if w < 2 ^ 10 then some (.event (BitVec.ofNat 10 w)) else none
  else if w < 2 ^ 36 then
    let word : RequestWord := BitVec.ofNat 36 w
    some (.request word (if reqOp word = 0x2 then List.replicate (reqN word).toNat 0 else []))
  else none

/-- The instruction the decoder reads from a table word; `none` where it refuses. -/
def decodeTableWord (nbits w : Nat) : Option Instr :=
  match tablePortInput nbits w with
  | none => none
  | some x =>
    match decode x with
    | .ok i => some i
    | .error _ => none

end Sys2Proof
end

