-- ==== Sys2Proof/Machine/State.lean ====
section
/-! DEFINITION. The state record of one core instance (spec/10_state.md R20), its ports (spec/30_encoding.md
R70), the reasons a step stops, and the state after power-on (R41, R230). -/

namespace Sys2Proof.Machine

/-- The Driver State (R21), in the order of R84. -/
inductive DriverState where
  | idle | sendingStart | sendingRestart | transmittingData | receivingData | sendingAck | sendingStop
  | error | disabled
  deriving DecidableEq, Repr

/-- The error codes (R22), in the order of R83. -/
inductive ErrCode where
  | noError | internal | inErrorState | busy | txOverflow | rxOverflow | slaveNack | nothingReceived
  | collisionDetected | disabled
  deriving DecidableEq, Repr

/-- The kind of a Bus Controller operation (R30, R81). -/
inductive OpKind where
  | start | restart | stop | tx | rx | ack
  deriving DecidableEq, Repr

/-- The fault kinds a `modelFault` set can hold (R206). The `Refused` mark of R206 is not one of them: a refused
request ends the run as a refusal of the step. -/
inductive FaultKind where
  | busOverrun
  deriving DecidableEq, Repr

/-- What the command port shows in a step (R80, R81). -/
inductive Command where
  | none | start | restart | stop
  | tx (b : Byte)
  | rxen | ack
  deriving DecidableEq, Repr

/-- An answer on the response port (R82). -/
structure Response where
  code : ErrCode
  val  : Byte
  data : List Byte
  deriving DecidableEq, Repr

/-- What the bc control port shows in a step beside `bcOn` (R70): nothing, `BC_Init(CFG)` at ENABLE (R134) or
`BC_Off()` at DISABLE (R135). -/
inductive BcControl where
  | quiet
  | init (cfg : Cfg)
  | off
  deriving DecidableEq, Repr

/-- The Transaction Buffer's bytes (R23, R50) that some step has written, addresses strictly rising. An unlisted
address holds no written byte. -/
abbrev Memory := List Host.Cell

/-- One core instance. The fields `state` to `modelFault` are the record of R20, under its names; `params` holds
the run's parameters (R6), which no step writes; `inputs` holds what stands on the request and event ports, in the
order of R63's interleaving; `cmd`, `resp` and `bc` are what the last step put on the output ports (R70). DESIGN
CHOICE (assumptions 1, 2, 5): the last three sorts of field are the model's, not the record's. -/
structure State where
  params      : Params
  state       : DriverState
  err         : ErrCode
  buf         : Memory
  length      : Nat
  cursor      : Nat
  erc         : Nat
  rxCount     : Nat
  bcOn        : Bool
  outstanding : Option OpKind
  modelFault  : List FaultKind
  inputs      : List PortInput
  cmd         : Command
  resp        : Option Response
  bc          : BcControl
  deriving DecidableEq, Repr

/-- Why the machine stops with a fault. -/
inductive Fault where
  /-- Raised by FETCH_RESULT alone, when `rxCount` exceeds `C`, a value outside the field's range (R20), so that it
  would read a Transaction Buffer byte that does not exist (R50, R52). Safe: the machine stops. -/
  | bufferIndexOutOfRange
  deriving DecidableEq, Repr

/-- Why an instruction has no meaning. -/
inductive Refusal where
  /-- Raised by `exec` for an instruction not modelled yet. Safe: the machine stops. -/
  | notModelled (mnemonic : String)
  /-- Raised by `step` for a request that spells no operation (R76): no state changes and no response is defined.
  The refused step stands for the run's `Refused` mark (R206). Safe: the machine stops. -/
  | illegalRequest (why : DecodeError)
  deriving DecidableEq, Repr

/-- The state at power-on (R41, R230) of an instance with the given parameters: nothing pending. DESIGN CHOICE
(assumption 13): the ports at rest. -/
def State.powerOn (p : Params) : State where
  params := p
  state := .disabled
  err := .noError
  buf := []
  length := 0
  cursor := 0
  erc := 0
  rxCount := 0
  bcOn := false
  outstanding := none
  modelFault := []
  inputs := []
  cmd := .none
  resp := none
  bc := .quiet

/-- The machine right after power-on, its parameters the open ones of Config (instance 0). -/
def State.reset : State := State.powerOn (Config.params 0)

end Sys2Proof.Machine
end

