-- ==== Sys2Proof/Machine/Operands.lean ====
section
/-! DEFINITION. Operand forms (spec/30_encoding.md R72, spec/20_memory.md R54, R55, spec/40_enqueue.md R106) and
the code numbers of commands, answers and states (spec/30_encoding.md R80 to R84). -/

namespace Sys2Proof.Machine

/-- A 16-bit count operand as a natural number (R72): `len`, `count`, `bufferLen`. -/
def countOf (n : BitVec 16) : Nat := n.toNat

/-- `AddrByte(a) = (a << 1) & 0xFE` (R106): `a[6:0]` in bits 7:1, the read/write bit 0, `a[7]` discarded. -/
def addrByte (a : Byte) : Byte := (a <<< 1) &&& 0xFE#8

/-- The read/write bit of an address byte (R55): 1 = read. -/
def readBit (b : Byte) : Bool := b.getLsbD 0

/-- The address byte with its read bit set, bits 7:1 kept (R170). -/
def withReadBit (b : Byte) : Byte := b ||| 0x01#8

/-- Error code numbers (R83). -/
def codeOfErr : ErrCode → BitVec 4
  | .noError => 0
  | .internal => 1
  | .inErrorState => 2
  | .busy => 3
  | .txOverflow => 4
  | .rxOverflow => 5
  | .slaveNack => 6
  | .nothingReceived => 7
  | .collisionDetected => 8
  | .disabled => 9

/-- The error code of a number; 10 to 15 are reserved (R83). -/
def errOfCode (c : BitVec 4) : Option ErrCode :=
  [ErrCode.noError, .internal, .inErrorState, .busy, .txOverflow, .rxOverflow, .slaveNack, .nothingReceived,
    .collisionDetected, .disabled][c.toNat]?

/-- Driver State numbers (R84). -/
def codeOfState : DriverState → BitVec 4
  | .idle => 0
  | .sendingStart => 1
  | .sendingRestart => 2
  | .transmittingData => 3
  | .receivingData => 4
  | .sendingAck => 5
  | .sendingStop => 6
  | .error => 7
  | .disabled => 8

/-- The Driver State of a number; 9 to 15 are reserved (R84). -/
def stateOfCode (c : BitVec 4) : Option DriverState :=
  [DriverState.idle, .sendingStart, .sendingRestart, .transmittingData, .receivingData, .sendingAck, .sendingStop,
    .error, .disabled][c.toNat]?

/-- The kind bits of a command (R81); 0b111 is reserved and never emitted. -/
def kindBits : Command → BitVec 3
  | .none => 0b000
  | .start => 0b001
  | .restart => 0b010
  | .stop => 0b011
  | .tx _ => 0b100
  | .rxen => 0b101
  | .ack => 0b110

/-- `txb`: the byte to transmit for TX, 0 otherwise (R80). -/
def txByteOf : Command → Byte
  | .tx b => b
  | .none | .start | .restart | .stop | .rxen | .ack => 0

/-- The word on the command port, `kind` above `txb` (R80). -/
def commandWord (c : Command) : CommandWord := kindBits c ++ txByteOf c

/-- The operation a command leaves outstanding (R81); NONE leaves none. -/
def kindOf : Command → Option OpKind
  | .none => none
  | .start => some .start
  | .restart => some .restart
  | .stop => some .stop
  | .tx _ => some .tx
  | .rxen => some .rx
  | .ack => some .ack

/-- The word of a response, `code` above `val` (R82). The data vector stands beside it. -/
def responseWord (r : Response) : ResponseWord := codeOfErr r.code ++ r.val

end Sys2Proof.Machine
end

