-- ==== Sys2Proof/Machine/Flags.lean ====
section
/-! DEFINITION. The one-bit conditions of the block: the core stores no flags (spec/10_state.md R34), it computes
them. -/

namespace Sys2Proof.Machine

/-- `busy` (R34, R133): every state but `Idle` and `Error`. -/
def DriverState.busy : DriverState → Bool
  | .idle => false
  | .error => false
  | .sendingStart => true
  | .sendingRestart => true
  | .transmittingData => true
  | .receivingData => true
  | .sendingAck => true
  | .sendingStop => true
  | .disabled => true

/-- Whether an event presented now is delivered (R160, R207, R211): the event source is unmasked, and an operation
is outstanding or the run admits spurious events. -/
def State.delivers (s : State) : Bool := s.bcOn && (s.outstanding.isSome || s.params.spurious)

/-- A write of `len` payload bytes fits (R102): `2 + len ≤ C`, without wrap (R7). -/
def State.writeFits (s : State) (len : Nat) : Bool := decide (2 + len ≤ s.params.C)

/-- A read of `count` bytes fits (R104): not (`2 > C` or `1 + count > C`), without wrap (R7). -/
def State.readFits (s : State) (count : Nat) : Bool :=
  decide (2 ≤ s.params.C) && decide (1 + count ≤ s.params.C)

end Sys2Proof.Machine
end

