-- ==== Sys2Proof/Machine/Ops.lean ====
section
/-! DEFINITION. The named operations over the buffer, the ports and the state that every meaning is made of:
buffer access (spec/20_memory.md R52, R53), answers (spec/40_enqueue.md R100, R101), commands
(spec/42_event_sequencer.md R178, R179), error entry (R162) and the way out of an error's stop (R175). -/

namespace Sys2Proof.Machine

/-! ### The Transaction Buffer -/

/-- The canonical form: addresses strictly rising. An unlisted address reads as no written byte, so no entry can
equal what it reads as. -/
def Memory.wf : Memory → Bool
  | [] => true
  | [_] => true
  | (i, _) :: (j, c) :: m => decide (i < j) && Memory.wf ((j, c) :: m)

/-- The byte some step has written at `i`, if any. -/
def Memory.lookup (i : Nat) : Memory → Option Byte
  | [] => none
  | (j, b) :: m => if i = j then some b else Memory.lookup i m

/-- `MemWrite(i, 1, v)` (R53): byte `i` becomes `v`, no other byte changes. -/
def Memory.write (i : Nat) (v : Byte) : Memory → Memory
  | [] => [(i, v)]
  | (j, b) :: m =>
    if i < j then (i, v) :: (j, b) :: m
    else if i = j then (i, v) :: m
    else (j, b) :: Memory.write i v m

/-- Bytes written at `i`, `i + 1`, ... in ascending order (R56). -/
def Memory.writeFrom (i : Nat) : List Byte → Memory → Memory
  | [], m => m
  | v :: vs, m => Memory.writeFrom (i + 1) vs (Memory.write i v m)

/-- `MemRead(i, 1)` (R52): the byte at `i`, for `i < C` only. A byte no step has written is a free value (R41):
DESIGN CHOICE (assumption 9). -/
def State.memRead (s : State) (i : Nat) : Option Byte :=
  if i < s.params.C then some ((s.buf.lookup i).getD (Config.powerOnByte s.params.inst i)) else none

/-- `[MemRead(i, 1), ..., MemRead(i + n - 1, 1)]`, if all of these bytes exist. -/
def State.memReadRange (s : State) (i : Nat) : Nat → Option (List Byte)
  | 0 => some []
  | n + 1 =>
    match s.memRead i, s.memReadRange (i + 1) n with
    | some b, some bs => some (b :: bs)
    | _, _ => none

/-! ### The ports -/

/-- The output ports at the start of a step: command NONE (R80), no response, nothing on bc control. DESIGN CHOICE
(assumption 2). -/
def State.quiet (s : State) : State := { s with cmd := .none, resp := none, bc := .quiet }

/-- `return code` with `val` and the data vector (R9, R82). -/
def State.answer (s : State) (code : ErrCode) (val : Byte) (data : List Byte) : State :=
  { s with resp := some { code := code, val := val, data := data } }

/-- `return NoError` with nothing beside it. -/
def State.succeed (s : State) : State := s.answer .noError 0 []

/-- `fail(code)` (R100): the answer, and no field of the state changed. -/
def State.fail (s : State) (code : ErrCode) : State := s.quiet.answer code 0 []

/-- A kind joins the fault set (R31). DESIGN CHOICE (assumption 18): a list without repeats. -/
def addFault (k : FaultKind) (ks : List FaultKind) : List FaultKind := if k ∈ ks then ks else ks ++ [k]

/-- `emit(cmd)` with its bookkeeping: a command other than NONE becomes the outstanding operation (R178), and
marks `BusOverrun` if one was outstanding already (R179). -/
def State.emit (s : State) (c : Command) : State :=
  match kindOf c with
  | none => { s with cmd := c }
  | some k =>
    { s with
      cmd := c
      outstanding := some k
      modelFault := if s.outstanding.isSome then addFault .busOverrun s.modelFault else s.modelFault }

/-! ### Foreground checks and counters -/

/-- The first three checks of every enqueue (R101) and of FETCH_RESULT (R130), in their order: the code of the
first that fails. -/
def State.accessCheck (s : State) : Option ErrCode :=
  if s.err ≠ .noError then some .inErrorState
  else if s.state = .disabled then some .disabled
  else if s.state ≠ .idle then some .busy
  else none

/-- The counters cleared (R132, R134). -/
def State.clearCounters (s : State) : State := { s with length := 0, cursor := 0, erc := 0, rxCount := 0 }

/-- The body shared by the enqueues (R102 to R105, R107): the checks of R101 with the capacity check last; on
success the bytes from index 0, the counters, `SendingStart` and START. -/
def State.enqueue (s : State) (fits : Bool) (overflow : ErrCode) (bytes : List Byte) (count : Nat) : State :=
  match s.accessCheck with
  | some code => s.fail code
  | none =>
    if fits = false then s.fail overflow
    else
      let loaded : State :=
        { s.quiet with
          buf := s.buf.writeFrom 0 bytes
          length := bytes.length
          cursor := 0
          erc := count
          rxCount := 0
          state := .sendingStart }
      (loaded.emit .start).succeed

/-! ### Error entry (the block's exception) and its end -/

/-- `EnterError(code)` (R162): the code is latched; an error met in `SendingStop` issues no second stop; under
`STAY` an error other than `SlaveNack` goes straight to `Error`; every other error issues the stop condition. -/
def State.enterError (s : State) (code : ErrCode) : State :=
  let latched : State := { s with err := code }
  if s.state = .sendingStop then { latched with state := if s.params.stay then .error else .idle }
  else if s.params.stay && decide (code ≠ .slaveNack) then { latched with state := .error }
  else { latched with state := .sendingStop }.emit .stop

/-- The stop condition has completed (R175): to `Error` if the stop was an error's under `STAY`, else to `Idle`.
The error stays latched. -/
def State.stopDone (s : State) : State :=
  { s with state := if s.params.stay && decide (s.err ≠ .noError) then .error else .idle }

/-! ### Transmit -/

/-- `emit(TX(MemRead(cursor, 1))); cursor <- cursor + 1; state <- TransmittingData` (R165, R166, R168). A cursor
that points past the buffer is an Internal error (R52): DEDUCED (assumption 7). -/
def State.transmitNext (s : State) : State :=
  match s.memRead s.cursor with
  | none => s.enterError .internal
  | some b => { s with cursor := s.cursor + 1, state := .transmittingData }.emit (.tx b)

end Sys2Proof.Machine
end

