-- ==== Sys2Proof/Machine/Control.lean ====
section
/-! DEFINITION. The control and observation operations (spec/41_control.md). All but FETCH_RESULT act in every
state and answer `NoError` (R138). -/

namespace Sys2Proof.Machine

/-- FETCH_RESULT (R130): the five checks in their order, then exactly `rxCount` bytes. It writes no field.
DESIGN CHOICE (assumption 8): a counter past the buffer faults. -/
def execFetchResult (bufferLen : BitVec 16) (s : State) : Host.Outcome State Fault Refusal :=
  match s.accessCheck with
  | some code => .next (s.fail code)
  | none =>
    if s.rxCount = 0 then .next (s.fail .nothingReceived)
    else if countOf bufferLen < s.rxCount then .next (s.fail .rxOverflow)
    else
      match s.memReadRange 0 s.rxCount with
      | some data => .next (s.quiet.answer .noError 0 data)
      | none => .fault .bufferIndexOutOfRange

/-- RESET (R132): to `Idle` with no error and empty counters; `buf`, `bcOn`, `outstanding` and `modelFault` stay. -/
def execReset (s : State) : Host.Outcome State Fault Refusal :=
  .next { s.quiet.clearCounters with state := .idle, err := .noError }.succeed

/-- IS_BUSY (R133): the busy bit in `val[0]`. -/
def execIsBusy (s : State) : Host.Outcome State Fault Refusal :=
  .next (s.quiet.answer .noError (BitVec.zeroExtend 8 (BitVec.ofBool s.state.busy)) [])

/-- ENABLE (R134): `BC_Init(CFG)`, the event source unmasked, the outstanding operation dropped, to `Idle` with
empty counters; `err`, `buf` and `modelFault` stay. `CFG` is passed on unread (R139). -/
def execEnable (s : State) : Host.Outcome State Fault Refusal :=
  .next { s.quiet.clearCounters with
    bc := .init s.params.cfg, bcOn := true, outstanding := none, state := .idle }.succeed

/-- DISABLE (R135): `BC_Off()`, the event source masked, the outstanding operation dropped, to `Disabled`;
everything else stays. -/
def execDisable (s : State) : Host.Outcome State Fault Refusal :=
  .next { s.quiet with bc := .off, bcOn := false, outstanding := none, state := .disabled }.succeed

/-- GET_ERROR (R136): the number of the latched code in `val[3:0]`. -/
def execGetError (s : State) : Host.Outcome State Fault Refusal :=
  .next (s.quiet.answer .noError (BitVec.zeroExtend 8 (codeOfErr s.err)) [])

/-- GET_STATE (R137): the number of the Driver State in `val[3:0]`. -/
def execGetState (s : State) : Host.Outcome State Fault Refusal :=
  .next (s.quiet.answer .noError (BitVec.zeroExtend 8 (codeOfState s.state)) [])

end Sys2Proof.Machine
end

