-- ==== Sys2Proof/Machine/Enqueue.lean ====
section
/-! DEFINITION. The enqueue operations (spec/40_enqueue.md). -/

namespace Sys2Proof.Machine

/-- WRITE_BYTE (R103): `TXOverflow` exactly when `3 > C`. -/
def execWriteByte (a r d : Byte) (s : State) : Host.Outcome State Fault Refusal :=
  .next (s.enqueue (s.writeFits 1) .txOverflow [addrByte a, r, d] 0)

/-- WRITE_BYTES (R102): `TXOverflow` when `2 + len > C`. -/
def execWriteBytes (a r : Byte) (data : List Byte) (s : State) : Host.Outcome State Fault Refusal :=
  .next (s.enqueue (s.writeFits data.length) .txOverflow (addrByte a :: r :: data) 0)

/-- READ_BYTE (R105): READ_BYTES with `count = 1`. -/
def execReadByte (a r : Byte) (s : State) : Host.Outcome State Fault Refusal :=
  .next (s.enqueue (s.readFits 1) .rxOverflow [addrByte a, r] 1)

/-- READ_BYTES (R104): `RXOverflow` when `2 > C` or `1 + count > C`; `count = 0` is accepted (R108). -/
def execReadBytes (a r : Byte) (count : BitVec 16) (s : State) : Host.Outcome State Fault Refusal :=
  .next (s.enqueue (s.readFits (countOf count)) .rxOverflow [addrByte a, r] (countOf count))

end Sys2Proof.Machine
end

