-- ==== Sys2Proof/Machine/Event.lean ====
section
/-! DEFINITION. The event step (spec/42_event_sequencer.md): the transaction state machine and the condition and
byte sequencer. -/

namespace Sys2Proof.Machine

/-- `CollisionStep` (R161): ignored in `Disabled`, latched in `Error`, error entry everywhere else. -/
def State.collisionStep (s : State) : State :=
  match s.state with
  | .disabled => s
  | .error => { s with err := .collisionDetected }
  | .idle | .sendingStart | .sendingRestart | .transmittingData | .receivingData | .sendingAck | .sendingStop =>
    s.enterError .collisionDetected

/-- `SendingStart` (R165): the start condition has completed, the byte at `cursor` goes out. -/
def State.startDone (s : State) : State :=
  if s.cursor ≥ s.length then s.enterError .internal else s.transmitNext

/-- `SendingRestart` (R166): the repeated start has completed, the byte at `cursor` goes out. -/
def State.restartDone (s : State) : State :=
  if s.cursor ≥ s.length then s.enterError .internal else s.transmitNext

/-- The transmit phase is over and a read is due (R170, R171): by the read bit of the address byte, either the
turnaround or the start of the receive phase. DEDUCED (assumption 7): without a byte 0, an Internal error. -/
def State.turnOrReceive (s : State) : State :=
  match s.memRead 0 with
  | none => s.enterError .internal
  | some b =>
    if readBit b then { s with cursor := 0, state := .receivingData }.emit .rxen
    else
      { s with buf := s.buf.write 0 (withReadBit b), length := 1, cursor := 0, state := .sendingRestart }.emit .restart

/-- `TransmittingData`, in the order of R163: NACK (R167), more bytes (R168), a pure write complete (R169), the
read phase (R170, R171), an impossible cursor (R172). -/
def State.byteSent (s : State) (nack : Bool) : State :=
  if nack then s.enterError .slaveNack
  else if s.cursor < s.length then s.transmitNext
  else if s.cursor = s.length then
    if s.erc = 0 then { s with state := .sendingStop }.emit .stop else s.turnOrReceive
  else s.enterError .internal

/-- `ReceivingData` (R173): the byte is stored at `cursor`; STOP after the last, ACK after every other. -/
def State.byteReceived (s : State) (rxb : Byte) : State :=
  if s.cursor ≥ s.erc ∨ s.cursor ≥ s.params.C then s.enterError .internal
  else
    let stored : State :=
      { s with buf := s.buf.write s.cursor rxb, cursor := s.cursor + 1, rxCount := s.rxCount + 1 }
    if stored.cursor = stored.erc then { stored with state := .sendingStop }.emit .stop
    else { stored with state := .sendingAck }.emit .ack

/-- `SendingAck` (R174): reception is enabled again. -/
def State.ackDone (s : State) : State := { s with state := .receivingData }.emit .rxen

/-- `RowStep` (R163): the one row of the transition table for the state, an event without collision. -/
def State.rowStep (s : State) (nack : Bool) (rxb : Byte) : State :=
  match s.state with
  | .idle => s.enterError .internal
  | .sendingStart => s.startDone
  | .sendingRestart => s.restartDone
  | .transmittingData => s.byteSent nack
  | .receivingData => s.byteReceived rxb
  | .sendingAck => s.ackDone
  | .sendingStop => s.stopDone
  | .error => s
  | .disabled => s

/-- `EventStep` (R160): the event answers the outstanding operation; a collision comes before everything else.
DEDUCED (assumption 6): the first holds in `Error` and `Disabled` too. -/
def State.eventStep (s : State) (coll nack : Bool) (rxb : Byte) : State :=
  let answered : State := { s with outstanding := none }
  if coll then answered.collisionStep else answered.rowStep nack rxb

/-- EVENT (R160): an event is delivered only while the event source is unmasked and an operation is outstanding
(or spurious events are admitted). One presented otherwise changes no field and emits no command.
DESIGN CHOICE (assumption 4): it is taken off the port all the same. -/
def execEvent (coll nack : Bool) (rxb : Byte) (s : State) : Host.Outcome State Fault Refusal :=
  .next (if s.delivers then s.quiet.eventStep coll nack rxb else s.quiet)

end Sys2Proof.Machine
end

