-- ==== Sys2Proof/Machine/Dispatch.lean ====
section
/-! DEFINITION. Which meaning each instruction has (spec/30_encoding.md R73, R77). -/

namespace Sys2Proof.Machine

def exec (i : Instr) (s : State) : Host.Outcome State Fault Refusal :=
  match i with
  | .writeByte a r d => Sys2Proof.Machine.execWriteByte a r d s
  | .writeBytes a r data => Sys2Proof.Machine.execWriteBytes a r data s
  | .readByte a r => Sys2Proof.Machine.execReadByte a r s
  | .readBytes a r count => Sys2Proof.Machine.execReadBytes a r count s
  | .fetchResult bufferLen => Sys2Proof.Machine.execFetchResult bufferLen s
  | .reset => Sys2Proof.Machine.execReset s
  | .isBusy => Sys2Proof.Machine.execIsBusy s
  | .enable => Sys2Proof.Machine.execEnable s
  | .disable => Sys2Proof.Machine.execDisable s
  | .getError => Sys2Proof.Machine.execGetError s
  | .getState => Sys2Proof.Machine.execGetState s
  | .event coll nack rxb => Sys2Proof.Machine.execEvent coll nack rxb s

end Sys2Proof.Machine
end

