-- ==== Sys2Proof/Machine/Step.lean ====
section
/-! DEFINITION. One step of the machine: the next item on the input ports (spec/00_scope.md R10). -/

namespace Sys2Proof.Machine

/-- The item is taken off the port. -/
def State.take (s : State) (rest : List PortInput) : State := { s with inputs := rest }

/-- One step takes one request or one event (R10, R70) and runs what it spells; a request that spells nothing is
refused (R76). With nothing on the ports the core waits (R230): no field changes, the output ports are at rest.
DESIGN CHOICE (assumptions 1, 3, 10). -/
def step (s : State) : Host.Outcome State Fault Refusal :=
  match s.inputs with
  | [] => .next s.quiet
  | x :: rest =>
    match decode x with
    | .ok i => exec i (s.take rest)
    | .error why => .refused (.illegalRequest why)

/-- The core as the Bus Controller finds it when it presents an event that is delivered (R160): the event source
unmasked and an operation outstanding; unchanged where that holds already. -/
def State.awaitingEvent (s : State) : State :=
  if s.delivers then s
  else { s with bcOn := true, outstanding := some (s.outstanding.getD .start) }

/-- `s` with the item whose bits are `w` as the only one on its ports, so that the next step runs it: an event
word also needs the conditions of its delivery (R160). A `w` with bits the port has no wire for presents nothing. -/
def State.withFetchWord (s : State) (nbits w : Nat) : State :=
  match tablePortInput nbits w with
  | none => { s with inputs := [] }
  | some (.request word data) => { s with inputs := [.request word data] }
  | some (.event word) => { s.awaitingEvent with inputs := [.event word] }

end Sys2Proof.Machine
end

