-- ==== Sys2Proof/Machine/System.lean ====
section
/-! DEFINITION. Several core instances, one per physical bus controller (spec/60_exceptions.md R217). -/

namespace Sys2Proof.Machine

/-- `N_INST` instances (R6, R217): each its own state record, ports and parameters, no field shared. DESIGN
CHOICE (assumption 15). -/
structure System where
  insts : List State
  deriving DecidableEq, Repr

/-- All instances at power-on. -/
def System.reset : System where
  insts := (List.range Config.nInst).map fun k => State.powerOn (Config.params k)

/-- Instance `k` takes a step, and no other does; `none` if there is no such instance. -/
def System.stepAt (k : Nat) (y : System) : Option (Host.Outcome System Fault Refusal) :=
  match y.insts[k]? with
  | none => none
  | some s =>
    match step s with
    | .next t => some (.next { insts := y.insts.set k t })
    | .fault r => some (.fault r)
    | .refused r => some (.refused r)

end Sys2Proof.Machine
end

