-- ==== Sys2Proof/Safety.lean ====
section
/-! DEFINITION. What counts as a safe state and a safe run, and the vocabulary of the statements: answers, loaded
transactions and error entry written out from the spec's rules, and the commands a run emits. -/

namespace Sys2Proof.Machine

/-! ### Results the statements name -/

/-- `s` with nothing on its output ports. No field of the record of R20 changes. -/
def State.resting (s : State) : State := { s with cmd := .none, resp := none, bc := .quiet }

/-- `s` with one answer on the response port and no command (R82, R100). No field of the record of R20 changes. -/
def State.answering (s : State) (code : ErrCode) (val : Byte) (data : List Byte) : State :=
  { s with cmd := .none, resp := some { code := code, val := val, data := data }, bc := .quiet }

/-- `t` is `s` after a successful enqueue of `bytes` with receive count `count` (R102, R104, R107): which fields are
written and with what, that every other one keeps its value, and every byte of the buffer. -/
def State.startedAs (s t : State) (bytes : List Byte) (count : Nat) : Prop :=
  (t.state = .sendingStart ∧ t.length = bytes.length ∧ t.cursor = 0 ∧ t.erc = count ∧ t.rxCount = 0) ∧
  (t.cmd = .start ∧ t.outstanding = some .start ∧ t.resp = some ⟨.noError, 0, []⟩ ∧ t.bc = .quiet) ∧
  (s.outstanding = none → t.modelFault = s.modelFault) ∧
  (s.outstanding ≠ none → ∀ k, k ∈ t.modelFault ↔ k = .busOverrun ∨ k ∈ s.modelFault) ∧
  (t.params = s.params ∧ t.err = s.err ∧ t.bcOn = s.bcOn ∧ t.inputs = s.inputs) ∧
  (∀ i (h : i < bytes.length), t.memRead i = some bytes[i]) ∧
  (∀ i, bytes.length ≤ i → t.memRead i = s.memRead i)

/-- `i` is an enqueue that loads `bytes` with receive count `count` where `fits` holds and fails with `overflow`
where it does not, after the checks of R101 in their order. -/
def State.enqueuesAs (s : State) (i : Instr) (fits : Prop) (overflow : ErrCode) (bytes : List Byte)
    (count : Nat) : Prop :=
  (s.err ≠ .noError → exec i s = .next (s.answering .inErrorState 0 [])) ∧
  (s.err = .noError → s.state = .disabled → exec i s = .next (s.answering .disabled 0 [])) ∧
  (s.err = .noError → s.state ≠ .disabled → s.state ≠ .idle → exec i s = .next (s.answering .busy 0 [])) ∧
  (s.err = .noError → s.state = .idle → ¬ fits → exec i s = .next (s.answering overflow 0 [])) ∧
  (s.err = .noError → s.state = .idle → fits → ∃ t, exec i s = .next t ∧ s.startedAs t bytes count)

/-- `s` after a delivered event that enters an error (R160, R162), written out: the code is latched, the
outstanding operation answered; in `SendingStop` no second stop; under `STAY` only a NACK still gets its stop. -/
def State.afterError (s : State) (code : ErrCode) : State :=
  if s.state = .sendingStop then
    { s.resting with err := code, outstanding := none, state := if s.params.stay then .error else .idle }
  else if s.params.stay = true ∧ code ≠ .slaveNack then
    { s.resting with err := code, outstanding := none, state := .error }
  else
    { s.resting with err := code, outstanding := some .stop, cmd := .stop, state := .sendingStop }

/-- An event presented now is delivered (R160, R211): the event source is unmasked, and an operation is outstanding
or the run admits spurious events. -/
abbrev State.deliverable (s : State) : Prop :=
  s.bcOn = true ∧ (s.outstanding ≠ none ∨ s.params.spurious = true)

/-- `s` in a run with another configuration value. -/
def State.withCfg (s : State) (c : Cfg) : State := { s with params := { s.params with cfg := c } }

/-- `s` as the record of another instance, whose power-on bytes are other free values. -/
def State.withInst (s : State) (k : Nat) : State := { s with params := { s.params with inst := k } }

/-! ### Instructions by kind -/

/-- The four enqueue operations (R102 to R105). -/
def isEnqueue : Instr → Bool
  | .writeByte _ _ _ => true
  | .writeBytes _ _ _ => true
  | .readByte _ _ => true
  | .readBytes _ _ _ => true
  | .fetchResult _ => false
  | .reset => false
  | .isBusy => false
  | .enable => false
  | .disable => false
  | .getError => false
  | .getState => false
  | .event _ _ _ => false

/-- The hardware event (R77). -/
def isEvent : Instr → Bool
  | .event _ _ _ => true
  | .writeByte _ _ _ => false
  | .writeBytes _ _ _ => false
  | .readByte _ _ => false
  | .readBytes _ _ _ => false
  | .fetchResult _ => false
  | .reset => false
  | .isBusy => false
  | .enable => false
  | .disable => false
  | .getError => false
  | .getState => false

/-! ### The invariant of every reachable state -/

/-- Every address a buffer lists is below `C` (R50). -/
abbrev Memory.within (c : Nat) (m : Memory) : Prop := ∀ x ∈ m, x.1 < c

/-- Bytes 0 to `n - 1` have been written by some step. -/
abbrev State.written (s : State) (n : Nat) : Prop := ∀ i < n, (s.buf.lookup i).isSome = true

/-- The bit `buf[0][0]` (R55), of a written byte 0. -/
def State.addressReadBit (s : State) : Option Bool := (s.buf.lookup 0).map readBit

/-- The buffer is in canonical form and holds no byte outside the address space. -/
abbrev State.bufOk (s : State) : Prop := s.buf.wf = true ∧ s.buf.within s.params.C

/-- The ranges of R20 and R7. -/
abbrev State.countersOk (s : State) : Prop :=
  s.length ≤ s.params.C ∧ s.cursor ≤ s.params.C ∧ s.erc ≤ s.params.C ∧ s.rxCount ≤ s.params.C

/-- What `err` can hold (R22), what `Error` implies (R36), and that without `STAY` no `Error` exists (R162). -/
abbrev State.errOk (s : State) : Prop :=
  (s.err = .noError ∨ s.err = .internal ∨ s.err = .slaveNack ∨ s.err = .collisionDetected) ∧
  (s.state = .error → s.err ≠ .noError) ∧ (s.params.stay = false → s.state ≠ .error)

/-- `Disabled` implies a masked event source (R37). -/
abbrev State.maskOk (s : State) : Prop := s.state = .disabled → s.bcOn = false

/-- The transmit phase (R38, R40): the counters, what has been loaded, and which pass the address byte names. -/
abbrev State.transmitOk (s : State) : Prop :=
  (s.state = .sendingStart ∨ s.state = .sendingRestart ∨ s.state = .transmittingData →
    s.cursor ≤ s.length ∧ 1 ≤ s.length ∧ s.rxCount = 0 ∧ s.erc + 1 ≤ s.params.C ∧ s.written s.length) ∧
  (s.state = .sendingStart → s.cursor = 0 ∧ 2 ≤ s.length ∧ s.addressReadBit = some false) ∧
  (s.state = .sendingRestart → s.length = 1 ∧ s.cursor = 0 ∧ s.addressReadBit = some true ∧ 1 ≤ s.erc) ∧
  (s.state = .transmittingData →
    (s.length = 1 → s.addressReadBit = some true) ∧ (2 ≤ s.length → s.addressReadBit = some false))

/-- The receive phase (R39). -/
abbrev State.receiveOk (s : State) : Prop :=
  s.state = .receivingData ∨ s.state = .sendingAck →
    1 ≤ s.erc ∧ s.erc + 1 ≤ s.params.C ∧ s.cursor = s.rxCount ∧ s.cursor < s.erc

/-- What holds in every reachable state, whatever the parameters and the inputs. The last two clauses say that
every captured byte has been written and that the fault set lists no kind twice. -/
structure State.Inv (s : State) : Prop where
  buf      : s.bufOk
  counters : s.countersOk
  err      : s.errOk
  mask     : s.maskOk
  transmit : s.transmitOk
  receive  : s.receiveOk
  captured : s.written s.rxCount
  marks    : s.modelFault.Nodup

/-- No operation is outstanding while the core is in `Idle`, `Error` or `Disabled` (R233). -/
abbrev State.settled (s : State) : Prop :=
  s.state = .idle ∨ s.state = .error ∨ s.state = .disabled → s.outstanding = none

/-- A state the source speaks about: no fault mark is set (R206). -/
abbrev State.unmarked (s : State) : Prop := s.modelFault = []

/-! ### Runs -/

/-- `k` steps, stopping at the first fault or refusal. -/
def runSteps : Nat → State → Option State
  | 0, s => some s
  | k + 1, s =>
    match step s with
    | .next t => runSteps k t
    | .fault _ => none
    | .refused _ => none

/-- The commands other than NONE that `k` steps put on the command port, in order. -/
def runCommands : Nat → State → List Command
  | 0, _ => []
  | k + 1, s =>
    match step s with
    | .next t => if t.cmd = .none then runCommands k t else t.cmd :: runCommands k t
    | .fault _ => []
    | .refused _ => []

/-- An event without collision and without NACK, its received byte `b` (R77). -/
def cleanEvent (b : Byte) : PortInput := .event (eventWord false false b)

/-- `ENABLE` or `RESET` has left the core ready for a transaction under the Bus Controller's contract (R211):
`Idle`, no error, the event source unmasked, nothing outstanding. -/
abbrev State.ready (s : State) : Prop :=
  s.state = .idle ∧ s.err = .noError ∧ s.bcOn = true ∧ s.outstanding = none

end Sys2Proof.Machine
end

