-- ==== Sys2Proof/Certificates/Slice0/Obligations.lean ====
section
/-! DEFINITION. The statements for the provers, each a formalisation of the rules of spec/ that its entry in
OBLIGATIONS.json cites. Results are written out as updates of the state, so that each says its own frame. -/

open Sys2Proof Sys2Proof.Machine

/-! ### Encodings -/

/-- Every well-formed operation is read back from the words that spell it, with every operand. -/
def Obligations.DecodeOfEncode : Prop :=
  ∀ i : Instr, i.WellFormed → decode (encode i) = .ok i

/-- Each instruction has one spelling at most: whatever port item decodes to it is its encoding, and it is well
formed. For an item with a data vector beside a word that has none this rests on the model's choice to refuse it
(assumption 11). -/
def Obligations.EncodeOfDecode : Prop :=
  ∀ (x : PortInput) (i : Instr), decode x = .ok i → i.WellFormed ∧ encode i = x

/-- Words of the spec's test vectors and programs decode to what the spec says they spell. -/
def Obligations.SpecWordsDecode : Prop :=
  decode (.request 0x15010007F [])                       = .ok (.writeByte 0x50 0x10 0x7F) ∧
  decode (.request 0x250100002 [0x01, 0x02])             = .ok (.writeBytes 0x50 0x10 [0x01, 0x02]) ∧
  decode (.request 0x368750000 [])                       = .ok (.readByte 0x68 0x75) ∧
  decode (.request 0x450200002 [])                       = .ok (.readBytes 0x50 0x20 2) ∧
  decode (.request 0x50000FFFF [])                       = .ok (.fetchResult 0xFFFF) ∧
  decode (.request 0x600000000 [])                       = .ok .reset ∧
  decode (.request 0x800000000 [])                       = .ok .enable ∧
  decode (.event 0x3FF)                                  = .ok (.event true true 0xFF) ∧
  decode (.event 0x155)                                  = .ok (.event false true 0x55)

/-- R76: a step meets a reserved operation code, a nonzero field that R74 marks 0, or a WRITE_BYTES whose data
vector does not hold `len` bytes, and refuses it. -/
def Obligations.IllegalRequestsAreRefused : Prop :=
  ∀ (s : State) (w : RequestWord) (data : List Byte) (rest : List PortInput),
    s.inputs = .request w data :: rest →
    (w.extractLsb' 32 4 = 0x0#4 ∨ 0xC#4 ≤ w.extractLsb' 32 4 ∨
      (w.extractLsb' 32 4 = 0x1#4 ∧ w.extractLsb' 8 8 ≠ 0) ∨
      (w.extractLsb' 32 4 = 0x2#4 ∧ data.length ≠ (w.extractLsb' 0 16).toNat) ∨
      (w.extractLsb' 32 4 = 0x3#4 ∧ w.extractLsb' 0 16 ≠ 0) ∨
      (w.extractLsb' 32 4 = 0x5#4 ∧ (w.extractLsb' 24 8 ≠ 0 ∨ w.extractLsb' 16 8 ≠ 0)) ∨
      (0x6#4 ≤ w.extractLsb' 32 4 ∧ w.extractLsb' 32 4 ≤ 0xB#4 ∧
        (w.extractLsb' 24 8 ≠ 0 ∨ w.extractLsb' 16 8 ≠ 0 ∨ w.extractLsb' 0 16 ≠ 0))) →
    ∃ why, step s = .refused (.illegalRequest why)

/-- R79, R77: each of the 1024 event words is an event, its flags bits 9 and 8, its byte bits 7:0. -/
def Obligations.EveryEventWordIsLegal : Prop :=
  ∀ w : EventWord, ∃ (coll nack : Bool) (rxb : Byte),
    decode (.event w) = .ok (.event coll nack rxb) ∧
    coll = w.getLsbD 9 ∧ nack = w.getLsbD 8 ∧ ∀ k < 8, rxb.getLsbD k = w.getLsbD k

/-- R83, R84: the numbers of the error codes and of the Driver States; the numbers above stand for nothing. -/
def Obligations.CodeNumbers : Prop :=
  (errOfCode 0 = some .noError ∧ errOfCode 1 = some .internal ∧ errOfCode 2 = some .inErrorState ∧
    errOfCode 3 = some .busy ∧ errOfCode 4 = some .txOverflow ∧ errOfCode 5 = some .rxOverflow ∧
    errOfCode 6 = some .slaveNack ∧ errOfCode 7 = some .nothingReceived ∧
    errOfCode 8 = some .collisionDetected ∧ errOfCode 9 = some .disabled ∧ ∀ c, 10#4 ≤ c → errOfCode c = none) ∧
  (stateOfCode 0 = some .idle ∧ stateOfCode 1 = some .sendingStart ∧ stateOfCode 2 = some .sendingRestart ∧
    stateOfCode 3 = some .transmittingData ∧ stateOfCode 4 = some .receivingData ∧
    stateOfCode 5 = some .sendingAck ∧ stateOfCode 6 = some .sendingStop ∧ stateOfCode 7 = some .error ∧
    stateOfCode 8 = some .disabled ∧ ∀ c, 9#4 ≤ c → stateOfCode c = none) ∧
  (∀ e, errOfCode (codeOfErr e) = some e) ∧ (∀ d, stateOfCode (codeOfState d) = some d)

/-- The words on the command and response ports (R80, R81, R82). -/
def Obligations.OutputWords : Prop :=
  (commandWord .none = 0x000 ∧ commandWord .start = 0x100 ∧ commandWord .restart = 0x200 ∧
    commandWord .stop = 0x300 ∧ commandWord .rxen = 0x500 ∧ commandWord .ack = 0x600) ∧
  (∀ b : Byte, (commandWord (.tx b)).extractLsb' 8 3 = 0b100#3 ∧ (commandWord (.tx b)).extractLsb' 0 8 = b) ∧
  (∀ r : Response, (responseWord r).extractLsb' 8 4 = codeOfErr r.code ∧ (responseWord r).extractLsb' 0 8 = r.val)

/-! ### The step -/

/-- A step takes the next item off the ports and runs what it spells. -/
def Obligations.StepRunsTheDecodedInput : Prop :=
  ∀ (s : State) (x : PortInput) (rest : List PortInput) (i : Instr),
    s.inputs = x :: rest → decode x = .ok i → step s = exec i { s with inputs := rest }

/-- With nothing on its ports the core waits: no field changes and no command is emitted (the model's step on empty
ports, assumption 3). So it does at power-on, where the model's ports are empty and at rest (assumptions 1 and 13). -/
def Obligations.StepWaitsWithoutInput : Prop :=
  (∀ s : State, s.inputs = [] → step s = .next { s with cmd := .none, resp := none, bc := .quiet }) ∧
  step State.reset = .next State.reset

/-- R230: every field at power-on. The buffer holds one byte for each index below `C`, and which byte is left open. -/
def Obligations.PowerOnState : Prop :=
  (State.reset.state = .disabled ∧ State.reset.err = .noError ∧ State.reset.length = 0 ∧ State.reset.cursor = 0 ∧
    State.reset.erc = 0 ∧ State.reset.rxCount = 0 ∧ State.reset.bcOn = false ∧ State.reset.outstanding = none ∧
    State.reset.modelFault = []) ∧
  ∀ i, (State.reset.memRead i).isSome = decide (i < State.reset.params.C)

/-! ### Enqueue operations -/

/-- R102: WRITE_BYTES, its four failures in their order and the loaded transaction. -/
def Obligations.WriteBytesResult : Prop :=
  ∀ (a r : Byte) (data : List Byte) (s : State),
    s.enqueuesAs (.writeBytes a r data) (2 + data.length ≤ s.params.C) .txOverflow
      (((a <<< 1) &&& 0xFE#8) :: r :: data) 0

/-- R103: WRITE_BYTE. -/
def Obligations.WriteByteResult : Prop :=
  ∀ (a r d : Byte) (s : State),
    s.enqueuesAs (.writeByte a r d) (3 ≤ s.params.C) .txOverflow [(a <<< 1) &&& 0xFE#8, r, d] 0

/-- R104: READ_BYTES. -/
def Obligations.ReadBytesResult : Prop :=
  ∀ (a r : Byte) (count : BitVec 16) (s : State),
    s.enqueuesAs (.readBytes a r count) (¬ (2 > s.params.C ∨ 1 + count.toNat > s.params.C)) .rxOverflow
      [(a <<< 1) &&& 0xFE#8, r] count.toNat

/-- R105: READ_BYTE. -/
def Obligations.ReadByteResult : Prop :=
  ∀ (a r : Byte) (s : State),
    s.enqueuesAs (.readByte a r) (s.params.C ≥ 2) .rxOverflow [(a <<< 1) &&& 0xFE#8, r] 1

/-- R100: an enqueue that does not answer `NoError` answers its code, changes no field and emits no command. -/
def Obligations.FailedEnqueueChangesNothing : Prop :=
  ∀ (i : Instr) (s t : State), isEnqueue i = true → exec i s = .next t → t.resp ≠ some ⟨.noError, 0, []⟩ →
    ∃ code, code ≠ .noError ∧ t = s.answering code 0 []

/-- R110: a latched error comes first in every state, `Disabled` only without one, `Busy` ahead of capacity. -/
def Obligations.EnqueueCheckOrder : Prop :=
  ∀ (i : Instr) (s : State), isEnqueue i = true →
    (s.err ≠ .noError → exec i s = .next (s.answering .inErrorState 0 [])) ∧
    (s.err = .noError → s.state = .disabled → exec i s = .next (s.answering .disabled 0 [])) ∧
    (s.err = .noError → s.state ≠ .disabled → s.state ≠ .idle → exec i s = .next (s.answering .busy 0 []))

/-- R106: bits 7:1 of the address byte are `a[6:0]`, bit 0 is 0, and `a[7]` is discarded. -/
def Obligations.AddressByteBits : Prop :=
  ∀ a : Byte, addrByte a = (a <<< 1) &&& 0xFE#8 ∧ (addrByte a).getLsbD 0 = false ∧
    (∀ k < 7, (addrByte a).getLsbD (k + 1) = a.getLsbD k) ∧ addrByte (a ^^^ 0x80#8) = addrByte a

/-- R109: which enqueues fit a buffer of fewer than two bytes, and of exactly two. -/
def Obligations.SmallCapacities : Prop :=
  ∀ (s : State), s.err = .noError → s.state = .idle →
    (s.params.C < 2 → ∀ (a r d : Byte) (data : List Byte) (count : BitVec 16),
      exec (.writeByte a r d) s = .next (s.answering .txOverflow 0 []) ∧
      exec (.writeBytes a r data) s = .next (s.answering .txOverflow 0 []) ∧
      exec (.readByte a r) s = .next (s.answering .rxOverflow 0 []) ∧
      exec (.readBytes a r count) s = .next (s.answering .rxOverflow 0 [])) ∧
    (s.params.C = 2 → ∀ i, isEnqueue i = true → ∃ t, exec i s = .next t ∧
      (t.resp = some ⟨.noError, 0, []⟩ ↔
        ∃ a r : Byte, i = .readByte a r ∨ i = .writeBytes a r [] ∨
          ∃ count : BitVec 16, count.toNat ≤ 1 ∧ i = .readBytes a r count))

/-- R86: the single-byte forms have the effect of the multi-byte forms with one byte. -/
def Obligations.SingleByteForms : Prop :=
  ∀ (a r d : Byte) (s : State),
    exec (.writeByte a r d) s = exec (.writeBytes a r [d]) s ∧ exec (.readByte a r) s = exec (.readBytes a r 1) s

/-! ### Control and observation -/

/-- R130: the five failures of FETCH_RESULT in their order, and on success exactly the `rxCount` captured bytes, no
field changed. The success clause asks `rxCount ≤ C`, the range of the field (R20), which `StepKeepsInvariant`
keeps. -/
def Obligations.FetchResultAnswers : Prop :=
  ∀ (n : BitVec 16) (s : State),
    (s.err ≠ .noError → exec (.fetchResult n) s = .next (s.answering .inErrorState 0 [])) ∧
    (s.err = .noError → s.state = .disabled → exec (.fetchResult n) s = .next (s.answering .disabled 0 [])) ∧
    (s.err = .noError → s.state ≠ .disabled → s.state ≠ .idle →
      exec (.fetchResult n) s = .next (s.answering .busy 0 [])) ∧
    (s.err = .noError → s.state = .idle →
      (s.rxCount = 0 → exec (.fetchResult n) s = .next (s.answering .nothingReceived 0 [])) ∧
      (s.rxCount ≠ 0 → n.toNat < s.rxCount → exec (.fetchResult n) s = .next (s.answering .rxOverflow 0 [])) ∧
      (s.rxCount ≠ 0 → s.rxCount ≤ n.toNat → s.rxCount ≤ s.params.C →
        ∃ data : List Byte, exec (.fetchResult n) s = .next (s.answering .noError 0 data) ∧
          data.length = s.rxCount ∧ ∀ k (h : k < data.length), s.memRead k = some data[k]))

/-- The model's own stop (assumption 8): with `rxCount` past the buffer, outside the range of R20 and in no run,
FETCH_RESULT would read a byte that does not exist. -/
def Obligations.FetchResultPastBufferFaults : Prop :=
  ∀ (n : BitVec 16) (s : State), s.err = .noError → s.state = .idle → s.params.C < s.rxCount →
    s.rxCount ≤ n.toNat → exec (.fetchResult n) s = .fault .bufferIndexOutOfRange

/-- R131: a second FETCH_RESULT directly after the first answers the same and changes nothing. -/
def Obligations.FetchResultIsIdempotent : Prop :=
  ∀ (n : BitVec 16) (s t : State), exec (.fetchResult n) s = .next t → exec (.fetchResult n) t = .next t

/-- R132: RESET, in every state. -/
def Obligations.ResetResult : Prop :=
  ∀ s : State, exec .reset s = .next { s.answering .noError 0 [] with
    state := .idle, err := .noError, length := 0, cursor := 0, erc := 0, rxCount := 0 }

/-- R133: IS_BUSY answers 0 in `Idle` and `Error` and 1 in every other state; no field changes. -/
def Obligations.IsBusyAnswers : Prop :=
  ∀ s : State,
    (s.state = .idle ∨ s.state = .error → exec .isBusy s = .next (s.answering .noError 0 [])) ∧
    (s.state ≠ .idle → s.state ≠ .error → exec .isBusy s = .next (s.answering .noError 1 []))

/-- R134: ENABLE, in every state, with the configuration value on the control port. -/
def Obligations.EnableResult : Prop :=
  ∀ s : State, exec .enable s = .next { s.answering .noError 0 [] with
    bc := .init s.params.cfg, bcOn := true, outstanding := none, state := .idle,
    length := 0, cursor := 0, erc := 0, rxCount := 0 }

/-- R135: DISABLE, in every state. -/
def Obligations.DisableResult : Prop :=
  ∀ s : State, exec .disable s = .next { s.answering .noError 0 [] with
    bc := .off, bcOn := false, outstanding := none, state := .disabled }

/-- R136: GET_ERROR answers the number of the latched code, zero-extended; no field changes. -/
def Obligations.GetErrorAnswers : Prop :=
  ∀ s : State, ∃ v : Byte, exec .getError s = .next (s.answering .noError v []) ∧
    v.extractLsb' 0 4 = codeOfErr s.err ∧ v.extractLsb' 4 4 = 0#4

/-- R137: GET_STATE answers the number of the Driver State, zero-extended; no field changes. -/
def Obligations.GetStateAnswers : Prop :=
  ∀ s : State, ∃ v : Byte, exec .getState s = .next (s.answering .noError v []) ∧
    v.extractLsb' 0 4 = codeOfState s.state ∧ v.extractLsb' 4 4 = 0#4

/-- R139: whatever the configuration value is, every operation does the same, but for what ENABLE hands over. -/
def Obligations.ConfigurationIsOpaque : Prop :=
  ∀ (i : Instr) (s t : State) (c : Cfg), exec i s = .next t →
    exec i (s.withCfg c) = .next { t.withCfg c with bc := if i = .enable then .init c else t.bc }

/-! ### The event step: delivery, commands, errors -/

/-- R160: an event presented while it cannot be delivered changes no field and emits no command (that a step takes
it off the port is the model's reading, assumption 4). -/
def Obligations.UndeliveredEventChangesNothing : Prop :=
  ∀ (coll nack : Bool) (rxb : Byte) (s : State), ¬ s.deliverable → exec (.event coll nack rxb) s = .next s.resting

/-- R178: a command becomes the outstanding operation; a delivered event without one leaves none. -/
def Obligations.CommandBecomesOutstanding : Prop :=
  ∀ (i : Instr) (s t : State), exec i s = .next t →
    (t.cmd ≠ .none → t.outstanding = kindOf t.cmd) ∧
    (isEvent i = true → s.deliverable → t.cmd = .none → t.outstanding = none)

/-- R179: an overrun is marked exactly by an enqueue that emits its command over an outstanding operation. -/
def Obligations.OverrunMarkedByEnqueueOnly : Prop :=
  ∀ (i : Instr) (s t : State), exec i s = .next t →
    ∀ k, k ∈ t.modelFault ↔ k ∈ s.modelFault ∨
      (k = .busOverrun ∧ isEnqueue i = true ∧ t.cmd ≠ .none ∧ s.outstanding ≠ none)

/-- A collision overrides every row, whatever the event's other fields. That a delivered one clears `outstanding` in
`Disabled` too is the model's reading of R160 beside R177 (assumption 6). -/
def Obligations.CollisionOverrides : Prop :=
  ∀ (nack : Bool) (rxb : Byte) (s : State), s.deliverable →
    (s.state = .disabled → exec (.event true nack rxb) s = .next { s.resting with outstanding := none }) ∧
    (s.state = .error → exec (.event true nack rxb) s =
      .next { s.resting with outstanding := none, err := .collisionDetected }) ∧
    (s.state ≠ .disabled → s.state ≠ .error →
      exec (.event true nack rxb) s = .next (s.afterError .collisionDetected))

/-- R180, R181: NACK is read in `TransmittingData` only, the received byte in `ReceivingData` only, and neither with
a collision. -/
def Obligations.UnusedEventFieldsIgnored : Prop :=
  ∀ (coll nack nack' : Bool) (rxb rxb' : Byte) (s : State),
    (s.state ≠ .transmittingData → exec (.event coll nack rxb) s = exec (.event coll nack' rxb) s) ∧
    (s.state ≠ .receivingData → exec (.event coll nack rxb) s = exec (.event coll nack rxb') s) ∧
    exec (.event true nack rxb) s = exec (.event true nack' rxb') s

/-! ### The event step: the rows of the transition table -/

/-- R164: an event in `Idle` is an Internal error. -/
def Obligations.EventInIdle : Prop :=
  ∀ (nack : Bool) (rxb : Byte) (s : State), s.deliverable → s.state = .idle →
    exec (.event false nack rxb) s = .next (s.afterError .internal)

/-- R165, R166: after the start or repeated start the byte at `cursor` goes out; with none left, Internal. -/
def Obligations.ConditionDoneSendsByte : Prop :=
  ∀ (nack : Bool) (rxb : Byte) (s : State), s.deliverable →
    s.state = .sendingStart ∨ s.state = .sendingRestart →
    (s.length ≤ s.cursor → exec (.event false nack rxb) s = .next (s.afterError .internal)) ∧
    (∀ b, s.cursor < s.length → s.memRead s.cursor = some b →
      exec (.event false nack rxb) s = .next { s.resting with
        cmd := .tx b, outstanding := some .tx, cursor := s.cursor + 1, state := .transmittingData })

/-- R167: a NACK in `TransmittingData`, on the last byte too, latches `SlaveNack` and issues the stop under both
policies. -/
def Obligations.NackIssuesStop : Prop :=
  ∀ (rxb : Byte) (s : State), s.deliverable → s.state = .transmittingData →
    exec (.event false true rxb) s = .next { s.resting with
      err := .slaveNack, cmd := .stop, outstanding := some .stop, state := .sendingStop }

/-- R168: an acknowledged byte with more to send. -/
def Obligations.AcknowledgedByteSendsNext : Prop :=
  ∀ (rxb b : Byte) (s : State), s.deliverable → s.state = .transmittingData → s.cursor < s.length →
    s.memRead s.cursor = some b →
    exec (.event false false rxb) s = .next { s.resting with
      cmd := .tx b, outstanding := some .tx, cursor := s.cursor + 1 }

/-- R169: a pure write is complete. -/
def Obligations.WriteCompleteStops : Prop :=
  ∀ (rxb : Byte) (s : State), s.deliverable → s.state = .transmittingData → s.cursor = s.length → s.erc = 0 →
    exec (.event false false rxb) s = .next { s.resting with
      cmd := .stop, outstanding := some .stop, state := .sendingStop }

/-- R170: the turnaround. Byte 0 gets its read bit, bits 7:1 kept, and no other byte changes. -/
def Obligations.TurnaroundRestarts : Prop :=
  ∀ (rxb b : Byte) (s : State), s.deliverable → s.state = .transmittingData → s.cursor = s.length → 0 < s.erc →
    s.memRead 0 = some b → b.getLsbD 0 = false →
    ∃ t, exec (.event false false rxb) s = .next t ∧
      t = { s.resting with
        buf := t.buf, length := 1, cursor := 0, cmd := .restart, outstanding := some .restart,
        state := .sendingRestart } ∧
      t.memRead 0 = some (b ||| 0x01#8) ∧ ∀ i, i ≠ 0 → t.memRead i = s.memRead i

/-- R171: the read address has been acknowledged, reception begins. -/
def Obligations.ReadAddressedReceives : Prop :=
  ∀ (rxb b : Byte) (s : State), s.deliverable → s.state = .transmittingData → s.cursor = s.length → 0 < s.erc →
    s.memRead 0 = some b → b.getLsbD 0 = true →
    exec (.event false false rxb) s = .next { s.resting with
      cursor := 0, cmd := .rxen, outstanding := some .rx, state := .receivingData }

/-- R172: a cursor past `length` in `TransmittingData` is an Internal error. -/
def Obligations.CursorPastLengthIsInternal : Prop :=
  ∀ (rxb : Byte) (s : State), s.deliverable → s.state = .transmittingData → s.length < s.cursor →
    exec (.event false false rxb) s = .next (s.afterError .internal)

/-- R173: a byte has arrived. It is stored at `cursor`, and no other byte changes. STOP after the last byte, ACK
after every other; past the expected count or the buffer, Internal. -/
def Obligations.ReceivedByteIsStored : Prop :=
  ∀ (nack : Bool) (rxb : Byte) (s : State), s.deliverable → s.state = .receivingData →
    (s.erc ≤ s.cursor ∨ s.params.C ≤ s.cursor →
      exec (.event false nack rxb) s = .next (s.afterError .internal)) ∧
    (s.cursor < s.erc → s.cursor < s.params.C → ∃ t, exec (.event false nack rxb) s = .next t ∧
      (s.cursor + 1 = s.erc → t = { s.resting with
        buf := t.buf, cursor := s.cursor + 1, rxCount := s.rxCount + 1, cmd := .stop, outstanding := some .stop,
        state := .sendingStop }) ∧
      (s.cursor + 1 ≠ s.erc → t = { s.resting with
        buf := t.buf, cursor := s.cursor + 1, rxCount := s.rxCount + 1, cmd := .ack, outstanding := some .ack,
        state := .sendingAck }) ∧
      t.memRead s.cursor = some rxb ∧ ∀ i, i ≠ s.cursor → t.memRead i = s.memRead i)

/-- R174: the acknowledge has been driven, reception is enabled again. -/
def Obligations.AcknowledgeDoneReceives : Prop :=
  ∀ (nack : Bool) (rxb : Byte) (s : State), s.deliverable → s.state = .sendingAck →
    exec (.event false nack rxb) s = .next { s.resting with
      cmd := .rxen, outstanding := some .rx, state := .receivingData }

/-- R175: the stop condition has completed. The error stays latched, nothing else changes. -/
def Obligations.StopDoneEndsTransaction : Prop :=
  ∀ (nack : Bool) (rxb : Byte) (s : State), s.deliverable → s.state = .sendingStop →
    (s.params.stay = true ∧ s.err ≠ .noError → exec (.event false nack rxb) s = .next { s.resting with
      outstanding := none, state := .error }) ∧
    (¬ (s.params.stay = true ∧ s.err ≠ .noError) → exec (.event false nack rxb) s = .next { s.resting with
      outstanding := none, state := .idle })

/-- R176, R177 with the frame of R160: `Error` without a collision and `Disabled` with or without one ignore an
event; a delivered event answers the outstanding operation there too (assumption 6). -/
def Obligations.ErrorAndDisabledIgnoreEvents : Prop :=
  ∀ (coll nack : Bool) (rxb : Byte) (s : State),
    (s.state = .error ∧ coll = false) ∨ s.state = .disabled →
    (s.deliverable → exec (.event coll nack rxb) s = .next { s.resting with outstanding := none }) ∧
    (¬ s.deliverable → exec (.event coll nack rxb) s = .next s.resting)

/-- The reading of R52 for the transmit rows (assumption 7): a cursor that points past the buffer, which no run
reaches, is an Internal error. -/
def Obligations.TransmitPastBufferIsInternal : Prop :=
  ∀ (rxb : Byte) (s : State), s.deliverable →
    s.state = .sendingStart ∨ s.state = .sendingRestart ∨ s.state = .transmittingData →
    s.cursor < s.length → s.params.C ≤ s.cursor →
    exec (.event false false rxb) s = .next (s.afterError .internal)

/-! ### Rules of the whole machine -/

/-- The invariant holds at power-on. -/
def Obligations.InvariantAtPowerOn : Prop := State.reset.Inv

/-- Every step keeps the invariant: the buffer's canonical form, the ranges of R20, and R22, R36, R37, R38, R40 and
R39's counters. -/
def Obligations.StepKeepsInvariant : Prop :=
  ∀ s t : State, s.Inv → step s = .next t → t.Inv

/-- In every state that meets the invariant every operation completes. -/
def Obligations.EveryOperationCompletes : Prop :=
  ∀ (i : Instr) (s : State), s.Inv → ∃ t, exec i s = .next t

/-- R22, R202, R203: only an event latches, and only the three codes of R202; only RESET clears. -/
def Obligations.ErrorRecordWriters : Prop :=
  ∀ (i : Instr) (s t : State), exec i s = .next t →
    (isEvent i = true → t.err = s.err ∨ t.err = .internal ∨ t.err = .slaveNack ∨ t.err = .collisionDetected) ∧
    (isEvent i = false → i ≠ .reset → t.err = s.err) ∧
    (i = .reset → t.err = .noError)

/-- R28: ENABLE unmasks the event source, DISABLE masks it, nothing else writes `bcOn`. -/
def Obligations.EventMaskWriters : Prop :=
  ∀ (i : Instr) (s t : State), exec i s = .next t →
    t.bcOn = if i = .enable then true else if i = .disable then false else s.bcOn

/-- R29, R6, R31: no operation changes a parameter or removes a fault mark; none touches what waits on the ports. -/
def Obligations.ParametersFixedMarksKept : Prop :=
  ∀ (i : Instr) (s t : State), exec i s = .next t →
    t.params = s.params ∧ t.inputs = s.inputs ∧ ∀ k ∈ s.modelFault, k ∈ t.modelFault

/-- R35: a buffer byte changes only by an enqueue in `Idle`, or by an event in a state that is neither `Idle` nor
`Error` nor `Disabled`. -/
def Obligations.BufferOwnership : Prop :=
  ∀ (i : Instr) (s t : State), exec i s = .next t →
    ¬ (isEnqueue i = true ∧ s.state = .idle) →
    ¬ (isEvent i = true ∧ s.state ≠ .idle ∧ s.state ≠ .error ∧ s.state ≠ .disabled) →
    ∀ a, t.memRead a = s.memRead a

/-- R233: without a RESET while busy and without spurious events, no operation is outstanding in `Idle` or `Error`
(nor in `Disabled`). -/
def Obligations.NothingOutstandingAtRest : Prop :=
  ∀ (i : Instr) (s t : State), s.params.spurious = false → s.settled →
    ¬ (i = .reset ∧ s.state.busy = true) → exec i s = .next t → t.settled

/-- With the event source masked, a core in `SendingStart` stays there and emits no command, whatever events are
presented. The spec infers this hang (R235). That the presented events are a list in State, and that each is taken off
the port undelivered, are the model's choices (assumptions 1 and 4). -/
def Obligations.MaskedStartHangs : Prop :=
  ∀ (evs : List EventWord) (s : State), s.bcOn = false → s.state = .sendingStart → s.inputs = evs.map .event →
    (∃ t, runSteps evs.length s = some t ∧
      t = { s.resting with inputs := [], cmd := t.cmd, resp := t.resp, bc := t.bc }) ∧
    runCommands evs.length s = []

/-- R62, R64: no operation reads a power-on byte. Two records that differ only in those free values behave alike. -/
def Obligations.PowerOnBytesNeverRead : Prop :=
  ∀ (i : Instr) (s t : State) (k : Nat), s.Inv → exec i s = .next t → exec i (s.withInst k) = .next (t.withInst k)

/-- Under the Bus Controller's contract, with no collision, no NACK and no further request, a write of `len` bytes
takes exactly `len + 4` events and a read of `count ≥ 1` bytes exactly `2·count + 5`, emitting the commands R182 lists
and ending in `Idle` without error; a read of no byte is a write of none. The single-byte requests are the cases
`len = 1` and `count = 1`. The bytes read are those of the receive events, in order (R39, R56). The spec infers R182;
that the run's request and events are a list in State is the model's choice (assumption 1). -/
def Obligations.TransactionLengths : Prop :=
  (∀ (x : PortInput) (a r : Byte) (data evs : List Byte) (s : State),
    x = encode (.writeBytes a r data) ∨ (∃ d, data = [d] ∧ x = encode (.writeByte a r d)) →
    s.ready → 2 + data.length ≤ s.params.C → (Instr.writeBytes a r data).WellFormed →
    s.inputs = x :: evs.map cleanEvent → evs.length = data.length + 4 →
    (∃ t, runSteps (1 + evs.length) s = some t ∧ t.ready ∧ t.inputs = [] ∧ t.modelFault = s.modelFault) ∧
    (∀ k < evs.length, ∃ t, runSteps (1 + k) s = some t ∧ t.state ≠ .idle) ∧
    runCommands (1 + evs.length) s =
      [.start, .tx (addrByte a), .tx r] ++ data.map .tx ++ [.stop]) ∧
  (∀ (x : PortInput) (a r : Byte) (count : BitVec 16) (evs : List Byte) (s : State),
    x = encode (.readBytes a r count) ∨ (count = 1 ∧ x = encode (.readByte a r)) →
    s.ready → 1 ≤ count.toNat → 1 + count.toNat ≤ s.params.C →
    s.inputs = x :: evs.map cleanEvent → evs.length = 2 * count.toNat + 5 →
    (∃ t, runSteps (1 + evs.length) s = some t ∧ t.ready ∧ t.inputs = [] ∧ t.modelFault = s.modelFault ∧
      t.rxCount = count.toNat ∧ ∀ k < count.toNat, t.memRead k = evs[5 + 2 * k]?) ∧
    (∀ k < evs.length, ∃ t, runSteps (1 + k) s = some t ∧ t.state ≠ .idle) ∧
    runCommands (1 + evs.length) s =
      [.start, .tx (addrByte a), .tx r, .restart, .tx (addrByte a ||| 0x01#8), .rxen] ++
        (List.replicate (count.toNat - 1) [Command.ack, .rxen]).flatten ++ [.stop]) ∧
  (∀ (a r : Byte) (evs : List Byte) (s : State),
    s.ready → 2 ≤ s.params.C →
    s.inputs = encode (.readBytes a r 0) :: evs.map cleanEvent → evs.length = 4 →
    (∃ t, runSteps (1 + evs.length) s = some t ∧ t.ready ∧ t.inputs = [] ∧ t.modelFault = s.modelFault) ∧
    (∀ k < evs.length, ∃ t, runSteps (1 + k) s = some t ∧ t.state ≠ .idle) ∧
    runCommands (1 + evs.length) s = [.start, .tx (addrByte a), .tx r, .stop])

/-- R217: a step of one instance touches no other. -/
def Obligations.InstancesIndependent : Prop :=
  ∀ (k : Nat) (y z : System), y.stepAt k = some (.next z) →
    (∃ s t, y.insts[k]? = some s ∧ step s = .next t ∧ z.insts[k]? = some t) ∧
    z.insts.length = y.insts.length ∧ ∀ j, j ≠ k → z.insts[j]? = y.insts[j]?
end

