-- ==== Sys2Proof/Laws/State.lean ====
section
/-! SUPPORT. One lemma per field for each update of State. -/

namespace Sys2Proof.Machine

/-! ### `quiet` -/

@[simp] theorem State.quiet_params (s : State) : (s.quiet).params = s.params := rfl
@[simp] theorem State.quiet_state (s : State) : (s.quiet).state = s.state := rfl
@[simp] theorem State.quiet_err (s : State) : (s.quiet).err = s.err := rfl
@[simp] theorem State.quiet_buf (s : State) : (s.quiet).buf = s.buf := rfl
@[simp] theorem State.quiet_length (s : State) : (s.quiet).length = s.length := rfl
@[simp] theorem State.quiet_cursor (s : State) : (s.quiet).cursor = s.cursor := rfl
@[simp] theorem State.quiet_erc (s : State) : (s.quiet).erc = s.erc := rfl
@[simp] theorem State.quiet_rxCount (s : State) : (s.quiet).rxCount = s.rxCount := rfl
@[simp] theorem State.quiet_bcOn (s : State) : (s.quiet).bcOn = s.bcOn := rfl
@[simp] theorem State.quiet_outstanding (s : State) : (s.quiet).outstanding = s.outstanding := rfl
@[simp] theorem State.quiet_modelFault (s : State) : (s.quiet).modelFault = s.modelFault := rfl
@[simp] theorem State.quiet_inputs (s : State) : (s.quiet).inputs = s.inputs := rfl
@[simp] theorem State.quiet_cmd (s : State) : (s.quiet).cmd = .none := rfl
@[simp] theorem State.quiet_resp (s : State) : (s.quiet).resp = none := rfl
@[simp] theorem State.quiet_bc (s : State) : (s.quiet).bc = .quiet := rfl

/-! ### `resting` -/

@[simp] theorem State.resting_params (s : State) : (s.resting).params = s.params := rfl
@[simp] theorem State.resting_state (s : State) : (s.resting).state = s.state := rfl
@[simp] theorem State.resting_err (s : State) : (s.resting).err = s.err := rfl
@[simp] theorem State.resting_buf (s : State) : (s.resting).buf = s.buf := rfl
@[simp] theorem State.resting_length (s : State) : (s.resting).length = s.length := rfl
@[simp] theorem State.resting_cursor (s : State) : (s.resting).cursor = s.cursor := rfl
@[simp] theorem State.resting_erc (s : State) : (s.resting).erc = s.erc := rfl
@[simp] theorem State.resting_rxCount (s : State) : (s.resting).rxCount = s.rxCount := rfl
@[simp] theorem State.resting_bcOn (s : State) : (s.resting).bcOn = s.bcOn := rfl
@[simp] theorem State.resting_outstanding (s : State) : (s.resting).outstanding = s.outstanding := rfl
@[simp] theorem State.resting_modelFault (s : State) : (s.resting).modelFault = s.modelFault := rfl
@[simp] theorem State.resting_inputs (s : State) : (s.resting).inputs = s.inputs := rfl
@[simp] theorem State.resting_cmd (s : State) : (s.resting).cmd = .none := rfl
@[simp] theorem State.resting_resp (s : State) : (s.resting).resp = none := rfl
@[simp] theorem State.resting_bc (s : State) : (s.resting).bc = .quiet := rfl

/-! ### `answer` -/

@[simp] theorem State.answer_params (s : State) (c : ErrCode) (v : Byte) (d : List Byte) : (s.answer c v d).params = s.params := rfl
@[simp] theorem State.answer_state (s : State) (c : ErrCode) (v : Byte) (d : List Byte) : (s.answer c v d).state = s.state := rfl
@[simp] theorem State.answer_err (s : State) (c : ErrCode) (v : Byte) (d : List Byte) : (s.answer c v d).err = s.err := rfl
@[simp] theorem State.answer_buf (s : State) (c : ErrCode) (v : Byte) (d : List Byte) : (s.answer c v d).buf = s.buf := rfl
@[simp] theorem State.answer_length (s : State) (c : ErrCode) (v : Byte) (d : List Byte) : (s.answer c v d).length = s.length := rfl
@[simp] theorem State.answer_cursor (s : State) (c : ErrCode) (v : Byte) (d : List Byte) : (s.answer c v d).cursor = s.cursor := rfl
@[simp] theorem State.answer_erc (s : State) (c : ErrCode) (v : Byte) (d : List Byte) : (s.answer c v d).erc = s.erc := rfl
@[simp] theorem State.answer_rxCount (s : State) (c : ErrCode) (v : Byte) (d : List Byte) : (s.answer c v d).rxCount = s.rxCount := rfl
@[simp] theorem State.answer_bcOn (s : State) (c : ErrCode) (v : Byte) (d : List Byte) : (s.answer c v d).bcOn = s.bcOn := rfl
@[simp] theorem State.answer_outstanding (s : State) (c : ErrCode) (v : Byte) (d : List Byte) : (s.answer c v d).outstanding = s.outstanding := rfl
@[simp] theorem State.answer_modelFault (s : State) (c : ErrCode) (v : Byte) (d : List Byte) : (s.answer c v d).modelFault = s.modelFault := rfl
@[simp] theorem State.answer_inputs (s : State) (c : ErrCode) (v : Byte) (d : List Byte) : (s.answer c v d).inputs = s.inputs := rfl
@[simp] theorem State.answer_cmd (s : State) (c : ErrCode) (v : Byte) (d : List Byte) : (s.answer c v d).cmd = s.cmd := rfl
@[simp] theorem State.answer_resp (s : State) (c : ErrCode) (v : Byte) (d : List Byte) : (s.answer c v d).resp = some ⟨c, v, d⟩ := rfl
@[simp] theorem State.answer_bc (s : State) (c : ErrCode) (v : Byte) (d : List Byte) : (s.answer c v d).bc = s.bc := rfl

/-! ### `answering` -/

@[simp] theorem State.answering_params (s : State) (c : ErrCode) (v : Byte) (d : List Byte) : (s.answering c v d).params = s.params := rfl
@[simp] theorem State.answering_state (s : State) (c : ErrCode) (v : Byte) (d : List Byte) : (s.answering c v d).state = s.state := rfl
@[simp] theorem State.answering_err (s : State) (c : ErrCode) (v : Byte) (d : List Byte) : (s.answering c v d).err = s.err := rfl
@[simp] theorem State.answering_buf (s : State) (c : ErrCode) (v : Byte) (d : List Byte) : (s.answering c v d).buf = s.buf := rfl
@[simp] theorem State.answering_length (s : State) (c : ErrCode) (v : Byte) (d : List Byte) : (s.answering c v d).length = s.length := rfl
@[simp] theorem State.answering_cursor (s : State) (c : ErrCode) (v : Byte) (d : List Byte) : (s.answering c v d).cursor = s.cursor := rfl
@[simp] theorem State.answering_erc (s : State) (c : ErrCode) (v : Byte) (d : List Byte) : (s.answering c v d).erc = s.erc := rfl
@[simp] theorem State.answering_rxCount (s : State) (c : ErrCode) (v : Byte) (d : List Byte) : (s.answering c v d).rxCount = s.rxCount := rfl
@[simp] theorem State.answering_bcOn (s : State) (c : ErrCode) (v : Byte) (d : List Byte) : (s.answering c v d).bcOn = s.bcOn := rfl
@[simp] theorem State.answering_outstanding (s : State) (c : ErrCode) (v : Byte) (d : List Byte) : (s.answering c v d).outstanding = s.outstanding := rfl
@[simp] theorem State.answering_modelFault (s : State) (c : ErrCode) (v : Byte) (d : List Byte) : (s.answering c v d).modelFault = s.modelFault := rfl
@[simp] theorem State.answering_inputs (s : State) (c : ErrCode) (v : Byte) (d : List Byte) : (s.answering c v d).inputs = s.inputs := rfl
@[simp] theorem State.answering_cmd (s : State) (c : ErrCode) (v : Byte) (d : List Byte) : (s.answering c v d).cmd = .none := rfl
@[simp] theorem State.answering_resp (s : State) (c : ErrCode) (v : Byte) (d : List Byte) : (s.answering c v d).resp = some ⟨c, v, d⟩ := rfl
@[simp] theorem State.answering_bc (s : State) (c : ErrCode) (v : Byte) (d : List Byte) : (s.answering c v d).bc = .quiet := rfl

/-! ### `succeed` -/

@[simp] theorem State.succeed_params (s : State) : (s.succeed).params = s.params := rfl
@[simp] theorem State.succeed_state (s : State) : (s.succeed).state = s.state := rfl
@[simp] theorem State.succeed_err (s : State) : (s.succeed).err = s.err := rfl
@[simp] theorem State.succeed_buf (s : State) : (s.succeed).buf = s.buf := rfl
@[simp] theorem State.succeed_length (s : State) : (s.succeed).length = s.length := rfl
@[simp] theorem State.succeed_cursor (s : State) : (s.succeed).cursor = s.cursor := rfl
@[simp] theorem State.succeed_erc (s : State) : (s.succeed).erc = s.erc := rfl
@[simp] theorem State.succeed_rxCount (s : State) : (s.succeed).rxCount = s.rxCount := rfl
@[simp] theorem State.succeed_bcOn (s : State) : (s.succeed).bcOn = s.bcOn := rfl
@[simp] theorem State.succeed_outstanding (s : State) : (s.succeed).outstanding = s.outstanding := rfl
@[simp] theorem State.succeed_modelFault (s : State) : (s.succeed).modelFault = s.modelFault := rfl
@[simp] theorem State.succeed_inputs (s : State) : (s.succeed).inputs = s.inputs := rfl
@[simp] theorem State.succeed_cmd (s : State) : (s.succeed).cmd = s.cmd := rfl
@[simp] theorem State.succeed_resp (s : State) : (s.succeed).resp = some ⟨.noError, 0, []⟩ := rfl
@[simp] theorem State.succeed_bc (s : State) : (s.succeed).bc = s.bc := rfl

/-! ### `fail` -/

@[simp] theorem State.fail_params (s : State) (c : ErrCode) : (s.fail c).params = s.params := rfl
@[simp] theorem State.fail_state (s : State) (c : ErrCode) : (s.fail c).state = s.state := rfl
@[simp] theorem State.fail_err (s : State) (c : ErrCode) : (s.fail c).err = s.err := rfl
@[simp] theorem State.fail_buf (s : State) (c : ErrCode) : (s.fail c).buf = s.buf := rfl
@[simp] theorem State.fail_length (s : State) (c : ErrCode) : (s.fail c).length = s.length := rfl
@[simp] theorem State.fail_cursor (s : State) (c : ErrCode) : (s.fail c).cursor = s.cursor := rfl
@[simp] theorem State.fail_erc (s : State) (c : ErrCode) : (s.fail c).erc = s.erc := rfl
@[simp] theorem State.fail_rxCount (s : State) (c : ErrCode) : (s.fail c).rxCount = s.rxCount := rfl
@[simp] theorem State.fail_bcOn (s : State) (c : ErrCode) : (s.fail c).bcOn = s.bcOn := rfl
@[simp] theorem State.fail_outstanding (s : State) (c : ErrCode) : (s.fail c).outstanding = s.outstanding := rfl
@[simp] theorem State.fail_modelFault (s : State) (c : ErrCode) : (s.fail c).modelFault = s.modelFault := rfl
@[simp] theorem State.fail_inputs (s : State) (c : ErrCode) : (s.fail c).inputs = s.inputs := rfl
@[simp] theorem State.fail_cmd (s : State) (c : ErrCode) : (s.fail c).cmd = .none := rfl
@[simp] theorem State.fail_resp (s : State) (c : ErrCode) : (s.fail c).resp = some ⟨c, 0, []⟩ := rfl
@[simp] theorem State.fail_bc (s : State) (c : ErrCode) : (s.fail c).bc = .quiet := rfl

/-! ### `clearCounters` -/

@[simp] theorem State.clearCounters_params (s : State) : (s.clearCounters).params = s.params := rfl
@[simp] theorem State.clearCounters_state (s : State) : (s.clearCounters).state = s.state := rfl
@[simp] theorem State.clearCounters_err (s : State) : (s.clearCounters).err = s.err := rfl
@[simp] theorem State.clearCounters_buf (s : State) : (s.clearCounters).buf = s.buf := rfl
@[simp] theorem State.clearCounters_length (s : State) : (s.clearCounters).length = 0 := rfl
@[simp] theorem State.clearCounters_cursor (s : State) : (s.clearCounters).cursor = 0 := rfl
@[simp] theorem State.clearCounters_erc (s : State) : (s.clearCounters).erc = 0 := rfl
@[simp] theorem State.clearCounters_rxCount (s : State) : (s.clearCounters).rxCount = 0 := rfl
@[simp] theorem State.clearCounters_bcOn (s : State) : (s.clearCounters).bcOn = s.bcOn := rfl
@[simp] theorem State.clearCounters_outstanding (s : State) : (s.clearCounters).outstanding = s.outstanding := rfl
@[simp] theorem State.clearCounters_modelFault (s : State) : (s.clearCounters).modelFault = s.modelFault := rfl
@[simp] theorem State.clearCounters_inputs (s : State) : (s.clearCounters).inputs = s.inputs := rfl
@[simp] theorem State.clearCounters_cmd (s : State) : (s.clearCounters).cmd = s.cmd := rfl
@[simp] theorem State.clearCounters_resp (s : State) : (s.clearCounters).resp = s.resp := rfl
@[simp] theorem State.clearCounters_bc (s : State) : (s.clearCounters).bc = s.bc := rfl

/-! ### `take` -/

@[simp] theorem State.take_params (s : State) (rest : List PortInput) : (s.take rest).params = s.params := rfl
@[simp] theorem State.take_state (s : State) (rest : List PortInput) : (s.take rest).state = s.state := rfl
@[simp] theorem State.take_err (s : State) (rest : List PortInput) : (s.take rest).err = s.err := rfl
@[simp] theorem State.take_buf (s : State) (rest : List PortInput) : (s.take rest).buf = s.buf := rfl
@[simp] theorem State.take_length (s : State) (rest : List PortInput) : (s.take rest).length = s.length := rfl
@[simp] theorem State.take_cursor (s : State) (rest : List PortInput) : (s.take rest).cursor = s.cursor := rfl
@[simp] theorem State.take_erc (s : State) (rest : List PortInput) : (s.take rest).erc = s.erc := rfl
@[simp] theorem State.take_rxCount (s : State) (rest : List PortInput) : (s.take rest).rxCount = s.rxCount := rfl
@[simp] theorem State.take_bcOn (s : State) (rest : List PortInput) : (s.take rest).bcOn = s.bcOn := rfl
@[simp] theorem State.take_outstanding (s : State) (rest : List PortInput) : (s.take rest).outstanding = s.outstanding := rfl
@[simp] theorem State.take_modelFault (s : State) (rest : List PortInput) : (s.take rest).modelFault = s.modelFault := rfl
@[simp] theorem State.take_inputs (s : State) (rest : List PortInput) : (s.take rest).inputs = rest := rfl
@[simp] theorem State.take_cmd (s : State) (rest : List PortInput) : (s.take rest).cmd = s.cmd := rfl
@[simp] theorem State.take_resp (s : State) (rest : List PortInput) : (s.take rest).resp = s.resp := rfl
@[simp] theorem State.take_bc (s : State) (rest : List PortInput) : (s.take rest).bc = s.bc := rfl

/-! ### `emit` -/

@[simp] theorem State.emit_params (s : State) (c : Command) : (s.emit c).params = s.params := by cases c <;> rfl
@[simp] theorem State.emit_state (s : State) (c : Command) : (s.emit c).state = s.state := by cases c <;> rfl
@[simp] theorem State.emit_err (s : State) (c : Command) : (s.emit c).err = s.err := by cases c <;> rfl
@[simp] theorem State.emit_buf (s : State) (c : Command) : (s.emit c).buf = s.buf := by cases c <;> rfl
@[simp] theorem State.emit_length (s : State) (c : Command) : (s.emit c).length = s.length := by cases c <;> rfl
@[simp] theorem State.emit_cursor (s : State) (c : Command) : (s.emit c).cursor = s.cursor := by cases c <;> rfl
@[simp] theorem State.emit_erc (s : State) (c : Command) : (s.emit c).erc = s.erc := by cases c <;> rfl
@[simp] theorem State.emit_rxCount (s : State) (c : Command) : (s.emit c).rxCount = s.rxCount := by cases c <;> rfl
@[simp] theorem State.emit_bcOn (s : State) (c : Command) : (s.emit c).bcOn = s.bcOn := by cases c <;> rfl
@[simp] theorem State.emit_inputs (s : State) (c : Command) : (s.emit c).inputs = s.inputs := by cases c <;> rfl
@[simp] theorem State.emit_resp (s : State) (c : Command) : (s.emit c).resp = s.resp := by cases c <;> rfl
@[simp] theorem State.emit_bc (s : State) (c : Command) : (s.emit c).bc = s.bc := by cases c <;> rfl
@[simp] theorem State.emit_cmd (s : State) (c : Command) : (s.emit c).cmd = c := by cases c <;> rfl

/-- What a command other than NONE leaves outstanding (R178). -/
@[simp] theorem State.emit_outstanding (s : State) (c : Command) :
    (s.emit c).outstanding = (kindOf c).or s.outstanding := by cases c <;> rfl

/-- When a command marks an overrun (R179). -/
@[simp] theorem State.emit_modelFault (s : State) (c : Command) :
    (s.emit c).modelFault =
      if (kindOf c).isSome && s.outstanding.isSome then addFault .busOverrun s.modelFault else s.modelFault := by
  cases c <;> simp [State.emit, kindOf]

/-- A failed operation is an answer and nothing else (R100). -/
@[simp] theorem State.fail_eq_answering (s : State) (c : ErrCode) : s.fail c = s.answering c 0 [] := rfl

@[simp] theorem State.quiet_answer (s : State) (c : ErrCode) (v : Byte) (d : List Byte) :
    s.quiet.answer c v d = s.answering c v d := rfl

theorem State.quiet_eq_resting (s : State) : s.quiet = s.resting := rfl

theorem mem_addFault (k j : FaultKind) (ks : List FaultKind) : j ∈ addFault k ks ↔ j = k ∨ j ∈ ks := by
  unfold addFault
  split
  · exact ⟨.inr, fun h => h.elim (fun e => e ▸ ‹_›) id⟩
  · simp [or_comm]

theorem addFault_nodup (k : FaultKind) {ks : List FaultKind} (h : ks.Nodup) : (addFault k ks).Nodup := by
  unfold addFault
  split
  · exact h
  · rw [List.nodup_append]
    exact ⟨h, by simp, fun a ha b hb e => ‹k ∉ ks› (List.mem_singleton.1 hb ▸ e ▸ ha)⟩

end Sys2Proof.Machine
end

