-- ==== Sys2Proof/Laws/Memory.lean ====
section
/-! SUPPORT. The laws of the Transaction Buffer: read after write, other bytes untouched, and the canonical form
kept by every operation (spec/20_memory.md R52, R53). -/

namespace Sys2Proof.Machine

theorem Memory.lookup_write (i j : Nat) (v : Byte) (m : Memory) :
    (m.write i v).lookup j = if j = i then some v else m.lookup j := by
  induction m with
  | nil => simp [Memory.write, Memory.lookup]
  | cons x m ih =>
    obtain ⟨k, b⟩ := x
    simp only [Memory.write]
    split
    · simp only [Memory.lookup]
    · split
      · subst_vars
        simp only [Memory.lookup]
        split <;> rfl
      · simp only [Memory.lookup, ih]
        split
        · rw [if_neg (by omega)]
        · rfl

@[simp] theorem Memory.lookup_write_self (i : Nat) (v : Byte) (m : Memory) : (m.write i v).lookup i = some v := by
  simp [Memory.lookup_write]

theorem Memory.lookup_write_other {i j : Nat} (h : j ≠ i) (v : Byte) (m : Memory) :
    (m.write i v).lookup j = m.lookup j := by
  simp [Memory.lookup_write, h]

theorem Memory.lookup_writeFrom_below {i j : Nat} (h : j < i) (vs : List Byte) (m : Memory) :
    (m.writeFrom i vs).lookup j = m.lookup j := by
  induction vs generalizing i m with
  | nil => rfl
  | cons v vs ih =>
    rw [Memory.writeFrom, ih (by omega), Memory.lookup_write_other (by omega)]

theorem Memory.lookup_writeFrom_above {i j : Nat} (vs : List Byte) (h : i + vs.length ≤ j) (m : Memory) :
    (m.writeFrom i vs).lookup j = m.lookup j := by
  induction vs generalizing i m with
  | nil => rfl
  | cons v vs ih =>
    simp only [List.length_cons] at h
    rw [Memory.writeFrom, ih (by omega), Memory.lookup_write_other (by omega)]

theorem Memory.lookup_writeFrom_at (i k : Nat) (vs : List Byte) (h : k < vs.length) (m : Memory) :
    (m.writeFrom i vs).lookup (i + k) = some vs[k] := by
  induction vs generalizing i k m with
  | nil => simp at h
  | cons v vs ih =>
    cases k with
    | zero => rw [Memory.writeFrom, Memory.lookup_writeFrom_below (by omega)]; simp
    | succ k =>
      rw [Memory.writeFrom, show i + (k + 1) = i + 1 + k by omega, ih]
      · simp
      · simpa using h

/-- The first address of a canonical buffer is below every other. -/
theorem Memory.wf_cons_iff (i : Nat) (b : Byte) (m : Memory) :
    Memory.wf ((i, b) :: m) = true ↔ (∀ x ∈ m, i < x.1) ∧ Memory.wf m = true := by
  induction m generalizing i b with
  | nil => simp [Memory.wf]
  | cons y m ih =>
    obtain ⟨j, c⟩ := y
    have hj := ih j c
    simp only [Memory.wf, Bool.and_eq_true, decide_eq_true_eq, List.mem_cons, forall_eq_or_imp]
    constructor
    · rintro ⟨hij, hw⟩
      exact ⟨⟨hij, fun x hx => by have := (hj.1 hw).1 x hx; omega⟩, hw⟩
    · rintro ⟨⟨hij, -⟩, hw⟩
      exact ⟨hij, hw⟩

theorem Memory.mem_write {i : Nat} {v : Byte} {m : Memory} {x : Host.Cell} (h : x ∈ m.write i v) :
    x = (i, v) ∨ x ∈ m := by
  induction m with
  | nil => exact .inl (by simpa [Memory.write] using h)
  | cons y m ih =>
    obtain ⟨j, b⟩ := y
    simp only [Memory.write] at h
    split at h
    · simpa using h
    · split at h
      · simp only [List.mem_cons] at h ⊢
        tauto
      · simp only [List.mem_cons] at h ⊢
        rcases h with h | h
        · exact .inr (.inl h)
        · exact (ih h).imp_right .inr

/-- A write keeps the canonical form. -/
theorem Memory.wf_write (i : Nat) (v : Byte) {m : Memory} (h : m.wf = true) : (m.write i v).wf = true := by
  induction m with
  | nil => rfl
  | cons y m ih =>
    obtain ⟨j, b⟩ := y
    obtain ⟨hlt, hw⟩ := (Memory.wf_cons_iff j b m).1 h
    simp only [Memory.write]
    split
    · refine (Memory.wf_cons_iff _ _ _).2 ⟨fun x hx => ?_, h⟩
      rcases List.mem_cons.1 hx with rfl | hx
      · assumption
      · have := hlt x hx; omega
    · split
      · subst_vars
        exact (Memory.wf_cons_iff _ _ _).2 ⟨hlt, hw⟩
      · refine (Memory.wf_cons_iff _ _ _).2 ⟨fun x hx => ?_, ih hw⟩
        rcases Memory.mem_write hx with rfl | hx
        · simp only; omega
        · exact hlt x hx

/-- A load keeps the canonical form. -/
theorem Memory.wf_writeFrom (i : Nat) (vs : List Byte) {m : Memory} (h : m.wf = true) :
    (m.writeFrom i vs).wf = true := by
  induction vs generalizing i m with
  | nil => exact h
  | cons v vs ih => exact ih _ (Memory.wf_write _ _ h)

/-- Reset memory lists nothing, which is in canonical form. -/
theorem State.reset_buf_wf : State.reset.buf.wf = true := rfl

theorem Memory.within_write {c i : Nat} (hi : i < c) (v : Byte) {m : Memory} (h : m.within c) :
    (m.write i v).within c := fun x hx => by
  rcases Memory.mem_write hx with rfl | hx
  · exact hi
  · exact h x hx

theorem Memory.within_writeFrom {c : Nat} (i : Nat) (vs : List Byte) (hi : i + vs.length ≤ c) {m : Memory}
    (h : m.within c) : (m.writeFrom i vs).within c := by
  induction vs generalizing i m with
  | nil => exact h
  | cons v vs ih =>
    simp only [List.length_cons] at hi
    exact ih (i + 1) (by omega) (Memory.within_write (by omega) v h)

/-- A read outside the address space gives nothing (R52). -/
theorem State.memRead_eq_none {s : State} {i : Nat} : s.memRead i = none ↔ s.params.C ≤ i := by
  unfold State.memRead
  split <;> simp <;> omega

/-- A read of a written byte gives that byte. -/
theorem State.memRead_of_lookup {s : State} {i : Nat} {b : Byte} (hi : i < s.params.C) (h : s.buf.lookup i = some b) :
    s.memRead i = some b := by
  simp [State.memRead, hi, h]

/-- A read depends on the parameters and on that one byte alone. -/
theorem State.memRead_congr {s t : State} {i : Nat} (hp : t.params = s.params)
    (hb : t.buf.lookup i = s.buf.lookup i) : t.memRead i = s.memRead i := by
  simp [State.memRead, hp, hb]

/-- A range is readable exactly when it lies in the buffer. -/
theorem State.memReadRange_isSome (s : State) (i n : Nat) :
    (s.memReadRange i n).isSome = true ↔ n = 0 ∨ i + n ≤ s.params.C := by
  induction n generalizing i with
  | zero => simp [State.memReadRange]
  | succ n ih =>
    have h := ih (i + 1)
    simp only [State.memReadRange]
    rcases hb : s.memRead i with _ | b
    · have := State.memRead_eq_none.1 hb
      simp
      omega
    · have hi : ¬ s.params.C ≤ i := fun h => by simp [State.memRead_eq_none.2 h] at hb
      rcases hr : s.memReadRange (i + 1) n with _ | bs
      · simp [hr] at h ⊢
        omega
      · simp [hr] at h ⊢
        omega

/-- What a range read gives: `n` bytes, the `k`-th of them byte `i + k`. -/
theorem State.memReadRange_spec {s : State} {i n : Nat} {bs : List Byte} (h : s.memReadRange i n = some bs) :
    bs.length = n ∧ ∀ k (hk : k < bs.length), s.memRead (i + k) = some bs[k] := by
  induction n generalizing i bs with
  | zero =>
    obtain rfl : [] = bs := by simpa [State.memReadRange] using h
    simp
  | succ n ih =>
    simp only [State.memReadRange] at h
    split at h
    · next b cs hb hcs =>
      obtain rfl : b :: cs = bs := by simpa using h
      obtain ⟨hl, hk⟩ := ih hcs
      refine ⟨by simp [hl], fun k hk' => ?_⟩
      cases k with
      | zero => simpa using hb
      | succ k =>
        have := hk k (by simpa using hk')
        rw [show i + (k + 1) = i + 1 + k by omega, this]
        simp
    · simp at h

end Sys2Proof.Machine
end

