-- ==== Sys2Proof/Laws/Ops.lean ====
section
/-! SUPPORT. One lemma for each shared operation, saying everything it can do. -/

namespace Sys2Proof.Machine

/-- The checks of R101 pass exactly in `Idle` with no error latched. -/
theorem State.accessCheck_eq_none {s : State} : s.accessCheck = none ↔ s.err = .noError ∧ s.state = .idle := by
  unfold State.accessCheck
  by_cases h : s.err = .noError <;> cases hs : s.state <;> simp [h]

/-- What the checks of R101 answer, case by case. -/
theorem State.accessCheck_cases (s : State) :
    (s.err ≠ .noError ∧ s.accessCheck = some .inErrorState) ∨
    (s.err = .noError ∧ s.state = .disabled ∧ s.accessCheck = some .disabled) ∨
    (s.err = .noError ∧ s.state ≠ .disabled ∧ s.state ≠ .idle ∧ s.accessCheck = some .busy) ∨
    (s.err = .noError ∧ s.state = .idle ∧ s.accessCheck = none) := by
  unfold State.accessCheck
  by_cases h : s.err = .noError <;> cases hs : s.state <;> simp [h]

/-- No check answers `NoError`. -/
theorem State.accessCheck_ne_noError {s : State} {c : ErrCode} (h : s.accessCheck = some c) : c ≠ .noError := by
  rcases s.accessCheck_cases with ⟨_, e⟩ | ⟨_, _, e⟩ | ⟨_, _, _, e⟩ | ⟨_, _, e⟩ <;> simp_all <;> subst h <;> simp

/-- The state a successful enqueue leaves (R102 to R105, R107, R178, R179). -/
def State.loaded (s : State) (bytes : List Byte) (count : Nat) : State :=
  { s.answering .noError 0 [] with
    buf := s.buf.writeFrom 0 bytes
    length := bytes.length
    cursor := 0
    erc := count
    rxCount := 0
    state := .sendingStart
    cmd := .start
    outstanding := some .start
    modelFault := if s.outstanding.isSome then addFault .busOverrun s.modelFault else s.modelFault }

theorem State.enqueue_checked {s : State} {c : ErrCode} (h : s.accessCheck = some c) (fits : Bool) (o : ErrCode)
    (bytes : List Byte) (count : Nat) : s.enqueue fits o bytes count = s.answering c 0 [] := by
  simp [State.enqueue, h]

theorem State.enqueue_overflow {s : State} (h : s.accessCheck = none) (o : ErrCode) (bytes : List Byte) (count : Nat) :
    s.enqueue false o bytes count = s.answering o 0 [] := by
  simp [State.enqueue, h]

theorem State.enqueue_loaded {s : State} (h : s.accessCheck = none) (o : ErrCode) (bytes : List Byte) (count : Nat) :
    s.enqueue true o bytes count = s.loaded bytes count := by
  simp [State.enqueue, h]
  rfl

/-- Everything an enqueue can do: answer a failing check, answer the overflow, or load the transaction. -/
theorem State.enqueue_cases (s : State) (fits : Bool) (o : ErrCode) (bytes : List Byte) (count : Nat) :
    (∃ c, s.accessCheck = some c ∧ s.enqueue fits o bytes count = s.answering c 0 []) ∨
    (s.accessCheck = none ∧ fits = false ∧ s.enqueue fits o bytes count = s.answering o 0 []) ∨
    (s.accessCheck = none ∧ fits = true ∧ s.enqueue fits o bytes count = s.loaded bytes count) := by
  rcases h : s.accessCheck with _ | c
  · cases fits
    · exact .inr (.inl ⟨rfl, rfl, State.enqueue_overflow h ..⟩)
    · exact .inr (.inr ⟨rfl, rfl, State.enqueue_loaded h ..⟩)
  · exact .inl ⟨c, rfl, State.enqueue_checked h ..⟩

/-- Every byte of the buffer after a load: the loaded bytes from index 0, the others as before. -/
theorem State.memRead_loaded (s : State) (bytes : List Byte) (count i : Nat) :
    (s.loaded bytes count).memRead i =
      if h : i < bytes.length ∧ i < s.params.C then some (bytes[i]'h.1) else s.memRead i := by
  by_cases hb : i < bytes.length
  · by_cases hc : i < s.params.C
    · have := Memory.lookup_writeFrom_at 0 i bytes hb s.buf
      simp only [Nat.zero_add] at this
      simp [State.memRead, State.loaded, State.answering, hb, hc, this]
    · simp [State.memRead, State.loaded, State.answering, hc]
  · have := Memory.lookup_writeFrom_above (i := 0) (j := i) bytes (by omega) s.buf
    simp [State.memRead, State.loaded, State.answering, hb, this]

/-- Everything error entry can do (R162). -/
theorem State.enterError_cases (s : State) (c : ErrCode) :
    (s.state = .sendingStop ∧
      s.enterError c = { s with err := c, state := if s.params.stay then .error else .idle }) ∨
    (s.state ≠ .sendingStop ∧ s.params.stay = true ∧ c ≠ .slaveNack ∧
      s.enterError c = { s with err := c, state := .error }) ∨
    (s.state ≠ .sendingStop ∧ (s.params.stay = false ∨ c = .slaveNack) ∧
      s.enterError c = ({ s with err := c, state := .sendingStop } : State).emit .stop) := by
  unfold State.enterError
  by_cases h : s.state = .sendingStop
  · exact .inl ⟨h, by simp [h]⟩
  · cases hs : s.params.stay <;> by_cases hc : c = .slaveNack <;> simp [h, hc]

/-- Error entry of a delivered event, as the statements write it (R160, R162). -/
theorem State.enterError_answered (s : State) (c : ErrCode) :
    ({ s.quiet with outstanding := none } : State).enterError c = s.afterError c := by
  unfold State.enterError State.afterError
  by_cases h : s.state = .sendingStop
  · simp [h, State.quiet, State.resting]
  · cases hs : s.params.stay <;> by_cases hc : c = .slaveNack <;>
      simp [h, hc, hs, State.quiet, State.resting, State.emit, kindOf]

/-- Everything the transmit of the next byte can do (R165, R166, R168, R52). -/
theorem State.transmitNext_cases (s : State) :
    (s.params.C ≤ s.cursor ∧ s.transmitNext = s.enterError .internal) ∨
    (∃ b, s.memRead s.cursor = some b ∧ s.cursor < s.params.C ∧
      s.transmitNext = ({ s with cursor := s.cursor + 1, state := .transmittingData } : State).emit (.tx b)) := by
  unfold State.transmitNext
  rcases h : s.memRead s.cursor with _ | b
  · exact .inl ⟨State.memRead_eq_none.1 h, rfl⟩
  · refine .inr ⟨b, rfl, ?_, rfl⟩
    by_contra hc
    simp [State.memRead_eq_none.2 (Nat.le_of_not_lt hc)] at h

theorem State.delivers_iff {s : State} : s.delivers = true ↔ s.deliverable := by
  unfold State.delivers State.deliverable
  rcases s.outstanding with _ | k <;> simp

end Sys2Proof.Machine
end

