-- ==== Sys2Proof/Laws/Event.lean ====
section
/-! SUPPORT. What an event step can do, once (spec/42_event_sequencer.md): later proofs cite these lemmas and do not
unfold the rows. -/

namespace Sys2Proof.Machine

/-- The state in which a delivered event meets its row: ports at rest, the outstanding operation answered (R160). -/
def State.answered (s : State) : State := { s.resting with outstanding := none }

@[simp] theorem State.answered_fields (s : State) :
    s.answered.params = s.params ∧ s.answered.state = s.state ∧ s.answered.err = s.err ∧ s.answered.buf = s.buf ∧
    s.answered.length = s.length ∧ s.answered.cursor = s.cursor ∧ s.answered.erc = s.erc ∧
    s.answered.rxCount = s.rxCount ∧ s.answered.bcOn = s.bcOn ∧ s.answered.outstanding = none ∧
    s.answered.modelFault = s.modelFault ∧ s.answered.inputs = s.inputs ∧ s.answered.cmd = .none ∧
    s.answered.resp = none ∧ s.answered.bc = .quiet := by
  simp [State.answered]

theorem State.answered_enterError (s : State) (c : ErrCode) : s.answered.enterError c = s.afterError c :=
  s.enterError_answered c

theorem State.memRead_answered (s : State) (i : Nat) : s.answered.memRead i = s.memRead i := rfl

/-- What EVENT does, by delivery and collision (R160). -/
theorem execEvent_eq (coll nack : Bool) (rxb : Byte) (s : State) :
    execEvent coll nack rxb s = .next (if s.delivers then
      (if coll then s.answered.collisionStep else s.answered.rowStep nack rxb) else s.resting) := rfl

/-- Everything a row can do to an answered state: enter an error, or one of the rows that go on. -/
inductive RowResult (s : State) (nack : Bool) (rxb : Byte) : State → Prop
  /-- Error entry: R164, R165, R166, R167, R172, R173, and R52 for a cursor past the buffer. -/
  | failed (c : ErrCode) (hc : c = .internal ∨ c = .slaveNack) (h : s.state ≠ .error ∧ s.state ≠ .disabled) :
      RowResult s nack rxb (s.afterError c)
  /-- The next byte goes out: R165, R166, R168. -/
  | sent (b : Byte) (h : s.state = .sendingStart ∨ s.state = .sendingRestart ∨ s.state = .transmittingData)
      (hl : s.cursor < s.length) (hb : s.memRead s.cursor = some b) :
      RowResult s nack rxb { s.answered with
        cursor := s.cursor + 1, state := .transmittingData, cmd := .tx b, outstanding := some .tx }
  /-- A pure write is complete: R169. -/
  | written (h : s.state = .transmittingData) (hl : s.cursor = s.length) (he : s.erc = 0) :
      RowResult s nack rxb { s.answered with state := .sendingStop, cmd := .stop, outstanding := some .stop }
  /-- The turnaround: R170. -/
  | turned (b : Byte) (h : s.state = .transmittingData) (hl : s.cursor = s.length) (he : s.erc ≠ 0)
      (hb : s.memRead 0 = some b) (hr : readBit b = false) :
      RowResult s nack rxb { s.answered with
        buf := s.buf.write 0 (withReadBit b), length := 1, cursor := 0, state := .sendingRestart,
        cmd := .restart, outstanding := some .restart }
  /-- The receive phase begins: R171. -/
  | addressed (b : Byte) (h : s.state = .transmittingData) (hl : s.cursor = s.length) (he : s.erc ≠ 0)
      (hb : s.memRead 0 = some b) (hr : readBit b = true) :
      RowResult s nack rxb { s.answered with
        cursor := 0, state := .receivingData, cmd := .rxen, outstanding := some .rx }
  /-- The last byte has arrived: R173. -/
  | last (h : s.state = .receivingData) (hc : s.cursor < s.params.C) (he : s.cursor + 1 = s.erc) :
      RowResult s nack rxb { s.answered with
        buf := s.buf.write s.cursor rxb, cursor := s.cursor + 1, rxCount := s.rxCount + 1,
        state := .sendingStop, cmd := .stop, outstanding := some .stop }
  /-- A byte before the last has arrived: R173. -/
  | stored (h : s.state = .receivingData) (hc : s.cursor < s.params.C) (he : s.cursor + 1 < s.erc) :
      RowResult s nack rxb { s.answered with
        buf := s.buf.write s.cursor rxb, cursor := s.cursor + 1, rxCount := s.rxCount + 1,
        state := .sendingAck, cmd := .ack, outstanding := some .ack }
  /-- The acknowledge has been driven: R174. -/
  | acked (h : s.state = .sendingAck) :
      RowResult s nack rxb { s.answered with state := .receivingData, cmd := .rxen, outstanding := some .rx }
  /-- The stop condition has completed: R175. -/
  | stopped (h : s.state = .sendingStop) :
      RowResult s nack rxb { s.answered with
        state := if s.params.stay && decide (s.err ≠ .noError) then .error else .idle }
  /-- Ignored: R176, R177. -/
  | ignored (h : s.state = .error ∨ s.state = .disabled) : RowResult s nack rxb s.answered

theorem State.transmit_result (s : State) (nack : Bool) (rxb : Byte)
    (h : s.state = .sendingStart ∨ s.state = .sendingRestart ∨ s.state = .transmittingData)
    (hl : s.cursor < s.length) : RowResult s nack rxb s.answered.transmitNext := by
  rcases s.answered.transmitNext_cases with ⟨-, e⟩ | ⟨b, hb, -, e⟩
  · rw [e, State.answered_enterError]
    exact .failed _ (.inl rfl) (by rcases h with h | h | h <;> simp [h])
  · rw [e]
    exact .sent b h hl hb

/-- The row of an event without collision gives one of these results (R163). -/
theorem State.rowStep_result (s : State) (nack : Bool) (rxb : Byte) :
    RowResult s nack rxb (s.answered.rowStep nack rxb) := by
  have hst : s.answered.state = s.state := rfl
  unfold State.rowStep
  cases hs : s.state <;> simp only [hst, hs]
  case idle => rw [State.answered_enterError]; exact .failed _ (.inl rfl) (by simp [hs])
  case sendingStart =>
    unfold State.startDone
    split
    · rw [State.answered_enterError]; exact .failed _ (.inl rfl) (by simp [hs])
    · next h => exact s.transmit_result nack rxb (by simp [hs]) (by simpa using h)
  case sendingRestart =>
    unfold State.restartDone
    split
    · rw [State.answered_enterError]; exact .failed _ (.inl rfl) (by simp [hs])
    · next h => exact s.transmit_result nack rxb (by simp [hs]) (by simpa using h)
  case transmittingData =>
    unfold State.byteSent
    split
    · rw [State.answered_enterError]; exact .failed _ (.inr rfl) (by simp [hs])
    split
    · next h => exact s.transmit_result nack rxb (by simp [hs]) (by simpa using h)
    split
    · next hl =>
      split
      · next he => exact .written hs hl he
      · next he =>
        unfold State.turnOrReceive
        split
        · rw [State.answered_enterError]; exact .failed _ (.inl rfl) (by simp [hs])
        · next b hb =>
          split
          · next hr => exact .addressed b hs hl he hb hr
          · next hr => exact .turned b hs hl he hb (by simpa using hr)
    · rw [State.answered_enterError]; exact .failed _ (.inl rfl) (by simp [hs])
  case receivingData =>
    unfold State.byteReceived
    split
    · rw [State.answered_enterError]; exact .failed _ (.inl rfl) (by simp [hs])
    · next h =>
      simp only [State.answered_fields, ge_iff_le, not_or, Nat.not_le] at h
      dsimp only
      split
      · next he => exact .last hs h.2 he
      · next he =>
        have he : s.cursor + 1 ≠ s.erc := he
        exact .stored hs h.2 (by omega)
  case sendingAck => exact .acked hs
  case sendingStop => exact .stopped hs
  case error => exact .ignored (.inl hs)
  case disabled => exact .ignored (.inr hs)

/-- What a collision gives (R161). -/
theorem State.collisionStep_cases (s : State) :
    (s.state = .disabled ∧ s.answered.collisionStep = s.answered) ∨
    (s.state = .error ∧ s.answered.collisionStep = { s.answered with err := .collisionDetected }) ∨
    (s.state ≠ .disabled ∧ s.state ≠ .error ∧ s.answered.collisionStep = s.afterError .collisionDetected) := by
  have hst : s.answered.state = s.state := rfl
  unfold State.collisionStep
  cases hs : s.state <;> simp [hs, State.answered_enterError]

/-- Everything EVENT can do. -/
inductive EventResult (s : State) (coll nack : Bool) (rxb : Byte) : State → Prop
  | undelivered (h : ¬ s.deliverable) : EventResult s coll nack rxb s.resting
  | masked (h : s.deliverable) (hs : s.state = .disabled) : EventResult s coll nack rxb s.answered
  | latched (h : s.deliverable) (hc : coll = true) (hs : s.state = .error) :
      EventResult s coll nack rxb { s.answered with err := .collisionDetected }
  | collided (h : s.deliverable) (hc : coll = true) (hs : s.state ≠ .disabled ∧ s.state ≠ .error) :
      EventResult s coll nack rxb (s.afterError .collisionDetected)
  | row (h : s.deliverable) (hc : coll = false) {t : State} (ht : RowResult s nack rxb t) :
      EventResult s coll nack rxb t

theorem execEvent_result {coll nack : Bool} {rxb : Byte} {s t : State} (h : execEvent coll nack rxb s = .next t) :
    EventResult s coll nack rxb t := by
  rw [execEvent_eq] at h
  cases hd : s.delivers with
  | false =>
    obtain rfl : s.resting = t := by simpa [hd] using h
    exact .undelivered fun hd' => by simp [State.delivers_iff.2 hd'] at hd
  | true =>
    have hd' := State.delivers_iff.1 hd
    cases coll with
    | false =>
      obtain rfl : s.answered.rowStep nack rxb = t := by simpa [hd] using h
      exact .row hd' rfl (s.rowStep_result nack rxb)
    | true =>
      obtain rfl : s.answered.collisionStep = t := by simpa [hd] using h
      rcases s.collisionStep_cases with ⟨hs, e⟩ | ⟨hs, e⟩ | ⟨h1, h2, e⟩
      · rw [e]; exact .masked hd' hs
      · rw [e]; exact .latched hd' rfl hs
      · rw [e]; exact .collided hd' rfl ⟨h1, h2⟩

/-- The three ends of error entry for a delivered event (R162). -/
theorem State.afterError_cases (s : State) (c : ErrCode) :
    (s.state = .sendingStop ∧
      s.afterError c = { s.answered with err := c, state := if s.params.stay then .error else .idle }) ∨
    (s.state ≠ .sendingStop ∧ s.params.stay = true ∧ c ≠ .slaveNack ∧
      s.afterError c = { s.answered with err := c, state := .error }) ∨
    (s.state ≠ .sendingStop ∧ (s.params.stay = false ∨ c = .slaveNack) ∧
      s.afterError c = { s.answered with
        err := c, state := .sendingStop, cmd := .stop, outstanding := some .stop }) := by
  unfold State.afterError
  by_cases h : s.state = .sendingStop
  · exact .inl ⟨h, by simp [h, State.answered]⟩
  · cases hs : s.params.stay <;> by_cases hc : c = .slaveNack <;> simp [h, hc, State.answered]

end Sys2Proof.Machine
end

