-- ==== Sys2Proof/Laws/Exec.lean ====
section
/-! SUPPORT. Everything exec and step can do, said once: later proofs take a case of `ExecResult` and do not unfold a
meaning. -/

namespace Sys2Proof.Machine

/-- Each enqueue is the shared operation, and where its bytes fit, they lie in the buffer and the receive count stays
below the capacity (R102 to R105). -/
theorem enqueue_form {i : Instr} (hi : isEnqueue i = true) (s : State) :
    ∃ fits overflow bytes count, exec i s = .next (s.enqueue fits overflow bytes count) ∧
      (fits = true → 2 ≤ bytes.length ∧ bytes.length ≤ s.params.C ∧ count + 1 ≤ s.params.C ∧
        ∃ a rest, bytes = addrByte a :: rest) := by
  cases i <;> simp [isEnqueue] at hi
  · exact ⟨_, _, _, _, rfl, by simp [State.writeFits]; omega⟩
  · exact ⟨_, _, _, _, rfl, by simp [State.writeFits]; omega⟩
  · exact ⟨_, _, _, _, rfl, by simp [State.readFits]⟩
  · refine ⟨_, _, _, _, rfl, fun h => ?_⟩
    simp only [State.readFits, Bool.and_eq_true, decide_eq_true_eq] at h
    exact ⟨by simp, by simpa using h.1, by omega, _, _, rfl⟩

/-- Everything an operation can leave. -/
inductive ExecResult (s : State) : Instr → State → Prop
  /-- An answer without effect: a failed enqueue, a FETCH_RESULT, a query (R100, R130, R133, R136, R137). -/
  | answered {i : Instr} (c : ErrCode) (v : Byte) (d : List Byte) (h : isEvent i = false) (hr : i ≠ .reset)
      (he : i ≠ .enable) (hd : i ≠ .disable) : ExecResult s i (s.answering c v d)
  /-- A loaded transaction (R102 to R105). -/
  | loaded {i : Instr} (bytes : List Byte) (count : Nat) (h : isEnqueue i = true) (hs : s.state = .idle)
      (he : s.err = .noError) (hb : 2 ≤ bytes.length) (hC : bytes.length ≤ s.params.C) (hc : count + 1 ≤ s.params.C)
      (ha : ∃ a rest, bytes = addrByte a :: rest) : ExecResult s i (s.loaded bytes count)
  /-- RESET (R132). -/
  | reset : ExecResult s .reset { s.answering .noError 0 [] with
      state := .idle, err := .noError, length := 0, cursor := 0, erc := 0, rxCount := 0 }
  /-- ENABLE (R134). -/
  | enable : ExecResult s .enable { s.answering .noError 0 [] with
      bc := .init s.params.cfg, bcOn := true, outstanding := none, state := .idle,
      length := 0, cursor := 0, erc := 0, rxCount := 0 }
  /-- DISABLE (R135). -/
  | disable : ExecResult s .disable { s.answering .noError 0 [] with
      bc := .off, bcOn := false, outstanding := none, state := .disabled }
  /-- EVENT (R160). -/
  | event (coll nack : Bool) (rxb : Byte) (t : State) (h : EventResult s coll nack rxb t) :
      ExecResult s (.event coll nack rxb) t

theorem execFetchResult_result {n : BitVec 16} {s t : State} (h : execFetchResult n s = .next t) :
    ExecResult s (.fetchResult n) t := by
  unfold execFetchResult at h
  split at h
  · obtain rfl := Host.Outcome.next.inj h
    exact .answered _ _ _ rfl (by simp) (by simp) (by simp)
  split at h
  · obtain rfl := Host.Outcome.next.inj h
    exact .answered _ _ _ rfl (by simp) (by simp) (by simp)
  split at h
  · obtain rfl := Host.Outcome.next.inj h
    exact .answered _ _ _ rfl (by simp) (by simp) (by simp)
  split at h
  · obtain rfl := Host.Outcome.next.inj h
    exact .answered _ _ _ rfl (by simp) (by simp) (by simp)
  · simp at h

/-- If exec answers a next state, it is one of these. -/
theorem exec_result {i : Instr} {s t : State} (h : exec i s = .next t) : ExecResult s i t := by
  by_cases hi : isEnqueue i = true
  · obtain ⟨f, o, b, c, e, hf⟩ := enqueue_form hi s
    rw [e] at h
    obtain rfl := Host.Outcome.next.inj h
    have hn : isEvent i = false ∧ i ≠ .reset ∧ i ≠ .enable ∧ i ≠ .disable := by
      cases i <;> simp_all [isEvent, isEnqueue]
    rcases s.enqueue_cases f o b c with ⟨c', h, e⟩ | ⟨h, -, e⟩ | ⟨h, hfit, e⟩ <;> rw [e]
    · exact .answered _ _ _ hn.1 hn.2.1 hn.2.2.1 hn.2.2.2
    · exact .answered _ _ _ hn.1 hn.2.1 hn.2.2.1 hn.2.2.2
    · obtain ⟨he, hs⟩ := State.accessCheck_eq_none.1 h
      obtain ⟨h1, h2, h3, h4⟩ := hf hfit
      exact .loaded _ _ hi hs he h1 h2 h3 h4
  · cases i with
    | writeByte _ _ _ => simp [isEnqueue] at hi
    | writeBytes _ _ _ => simp [isEnqueue] at hi
    | readByte _ _ => simp [isEnqueue] at hi
    | readBytes _ _ _ => simp [isEnqueue] at hi
    | fetchResult _ => exact execFetchResult_result h
    | reset => obtain rfl := Host.Outcome.next.inj h; exact .reset
    | isBusy => obtain rfl := Host.Outcome.next.inj h; exact .answered _ _ _ rfl (by simp) (by simp) (by simp)
    | enable => obtain rfl := Host.Outcome.next.inj h; exact .enable
    | disable => obtain rfl := Host.Outcome.next.inj h; exact .disable
    | getError => obtain rfl := Host.Outcome.next.inj h; exact .answered _ _ _ rfl (by simp) (by simp) (by simp)
    | getState => obtain rfl := Host.Outcome.next.inj h; exact .answered _ _ _ rfl (by simp) (by simp) (by simp)
    | event _ _ _ => exact .event _ _ _ _ (execEvent_result h)

/-- If step answers a next state, the core waited or ran what the first item spells. -/
theorem step_cases {s t : State} (h : step s = .next t) :
    (s.inputs = [] ∧ t = s.resting) ∨
    ∃ x rest i, s.inputs = x :: rest ∧ decode x = .ok i ∧ exec i (s.take rest) = .next t := by
  unfold step at h
  split at h
  · next hi => exact .inl ⟨hi, (Host.Outcome.next.inj h).symm⟩
  · next x rest hi =>
    split at h
    · next i hd => exact .inr ⟨x, rest, i, hi, hd, h⟩
    · simp at h

/-- A read depends on the parameters and the buffer alone. -/
theorem State.memReadRange_congr {s t : State} (hp : t.params = s.params) (hb : t.buf = s.buf) (i n : Nat) :
    t.memReadRange i n = s.memReadRange i n := by
  induction n generalizing i with
  | zero => rfl
  | succ n ih =>
    simp only [State.memReadRange]
    rw [ih, State.memRead_congr hp (by rw [hb])]

end Sys2Proof.Machine
end

