-- ==== Sys2Proof/Laws/Words.lean ====
section
/-! SUPPORT. The fields of the port words, read back from the words built from them (spec/30_encoding.md R71, R77,
R80, R82). -/

namespace Sys2Proof

theorem requestWord_getLsbD (op : BitVec 4) (a r : Byte) (n : BitVec 16) (k : Nat) :
    (requestWord op a r n).getLsbD k =
      if k < 16 then n.getLsbD k else if k < 24 then r.getLsbD (k - 16)
      else if k < 32 then a.getLsbD (k - 24) else op.getLsbD (k - 32) := by
  have h := BitVec.getLsbD_append (x := op ++ a ++ r) (y := n) (i := k)
  have h2 := BitVec.getLsbD_append (x := op ++ a) (y := r) (i := k - 16)
  have h3 := BitVec.getLsbD_append (x := op) (y := a) (i := k - 16 - 8)
  refine h.trans ?_
  rw [h2, h3]
  by_cases h16 : k < 16
  · simp [h16]
  · by_cases h24 : k < 24
    · simp [h16, h24, show k - 16 < 8 by omega]
    · by_cases h32 : k < 32
      · rw [if_neg h16, if_neg (by omega), if_pos (by omega), if_neg h16, if_neg h24, if_pos h32,
          show k - 16 - 8 = k - 24 by omega]
      · rw [if_neg h16, if_neg (by omega), if_neg (by omega), if_neg h16, if_neg h24, if_neg h32,
          show k - 16 - 8 - 8 = k - 32 by omega]

theorem eventWord_getLsbD (coll nack : Bool) (rxb : Byte) (k : Nat) :
    (eventWord coll nack rxb).getLsbD k =
      if k < 8 then rxb.getLsbD k else if k = 8 then nack else if k = 9 then coll else false := by
  have h := BitVec.getLsbD_append (x := BitVec.ofBool coll ++ BitVec.ofBool nack) (y := rxb) (i := k)
  have h2 := BitVec.getLsbD_append (x := BitVec.ofBool coll) (y := BitVec.ofBool nack) (i := k - 8)
  refine h.trans ?_
  rw [h2]
  by_cases h8 : k < 8
  · simp [h8]
  · obtain rfl | rfl | hk : k = 8 ∨ k = 9 ∨ 10 ≤ k := by omega
    · simp
    · simp
    · simp [h8, show ¬ k - 8 < 1 by omega, show k ≠ 8 by omega, show k ≠ 9 by omega,
        show k - 8 - 1 ≠ 0 by omega]

@[simp] theorem reqOp_requestWord (op : BitVec 4) (a r : Byte) (n : BitVec 16) :
    reqOp (requestWord op a r n) = op := by
  apply BitVec.eq_of_getLsbD_eq
  intro k hk
  simp only [reqOp, BitVec.getLsbD_extractLsb', requestWord_getLsbD]
  rw [if_neg (by omega), if_neg (by omega), if_neg (by omega)]
  simp [hk]

@[simp] theorem reqA_requestWord (op : BitVec 4) (a r : Byte) (n : BitVec 16) :
    reqA (requestWord op a r n) = a := by
  apply BitVec.eq_of_getLsbD_eq
  intro k hk
  simp only [reqA, BitVec.getLsbD_extractLsb', requestWord_getLsbD]
  rw [if_neg (by omega), if_neg (by omega), if_pos (by omega)]
  simp [hk]

@[simp] theorem reqR_requestWord (op : BitVec 4) (a r : Byte) (n : BitVec 16) :
    reqR (requestWord op a r n) = r := by
  apply BitVec.eq_of_getLsbD_eq
  intro k hk
  simp only [reqR, BitVec.getLsbD_extractLsb', requestWord_getLsbD]
  rw [if_neg (by omega), if_pos (by omega)]
  simp [hk]

@[simp] theorem reqN_requestWord (op : BitVec 4) (a r : Byte) (n : BitVec 16) :
    reqN (requestWord op a r n) = n := by
  apply BitVec.eq_of_getLsbD_eq
  intro k hk
  simp only [reqN, BitVec.getLsbD_extractLsb', requestWord_getLsbD]
  simp [hk]

/-- `n[15:8]` of a word is the high byte of `n`. -/
theorem reqNHigh_eq (w : RequestWord) : reqNHigh w = (reqN w).extractLsb' 8 8 := by
  apply BitVec.eq_of_getLsbD_eq
  intro k hk
  simp [reqNHigh, reqN, hk]

/-- `n[7:0]` of a word is the low byte of `n`. -/
theorem reqNLow_eq (w : RequestWord) : reqNLow w = (reqN w).extractLsb' 0 8 := by
  apply BitVec.eq_of_getLsbD_eq
  intro k hk
  simp [reqNLow, reqN]

/-- A request word is made of its four fields. -/
theorem requestWord_fields (w : RequestWord) : requestWord (reqOp w) (reqA w) (reqR w) (reqN w) = w := by
  apply BitVec.eq_of_getLsbD_eq
  intro k hk
  rw [requestWord_getLsbD]
  simp only [reqN, reqR, reqA, reqOp, BitVec.getLsbD_extractLsb']
  split
  · simp [*]
  · split
    · simp [show k - 16 < 8 by omega, show 16 + (k - 16) = k by omega]
    · split
      · simp [show k - 24 < 8 by omega, show 24 + (k - 24) = k by omega]
      · simp [show k - 32 < 4 by omega, show 32 + (k - 32) = k by omega]

/-- Reading back an event word's three fields (R77). -/
@[simp] theorem decodeEvent_eventWord (coll nack : Bool) (rxb : Byte) :
    decodeEvent (eventWord coll nack rxb) = .event coll nack rxb := by
  have hb : (eventWord coll nack rxb).extractLsb' 0 8 = rxb := by
    apply BitVec.eq_of_getLsbD_eq
    intro k hk
    rw [BitVec.getLsbD_extractLsb', eventWord_getLsbD]
    simp [hk]
  rw [decodeEvent, hb, eventWord_getLsbD, eventWord_getLsbD]
  rfl

/-- An event word is made of its three fields. -/
theorem eventWord_fields (w : EventWord) : eventWord (w.getLsbD 9) (w.getLsbD 8) (w.extractLsb' 0 8) = w := by
  apply BitVec.eq_of_getLsbD_eq
  intro k hk
  rw [eventWord_getLsbD]
  split
  · simp [*]
  · split
    · subst_vars; rfl
    · rw [if_pos (by omega), show k = 9 by omega]

end Sys2Proof

namespace Sys2Proof.Machine

/-- The two fields of a command word (R80). -/
theorem commandWord_getLsbD (c : Command) (k : Nat) :
    (commandWord c).getLsbD k = if k < 8 then (txByteOf c).getLsbD k else (kindBits c).getLsbD (k - 8) :=
  (BitVec.getLsbD_append (x := kindBits c) (y := txByteOf c) (i := k)).trans (by by_cases h : k < 8 <;> simp [h])

/-- The two fields of a response word (R82). -/
theorem responseWord_getLsbD (r : Response) (k : Nat) :
    (responseWord r).getLsbD k = if k < 8 then r.val.getLsbD k else (codeOfErr r.code).getLsbD (k - 8) :=
  (BitVec.getLsbD_append (x := codeOfErr r.code) (y := r.val) (i := k)).trans (by by_cases h : k < 8 <;> simp [h])

end Sys2Proof.Machine
end

