-- ==== Sys2Proof/Laws/PerInstr.lean ====
section
/-! SUPPORT. Per instruction: the encoding agrees with the instruction's row of spec/opcode_table.json, its bits under
the row's mask being the row's match. -/

namespace Sys2Proof.Laws.TableRow

/-- The row's `match`. -/
def rowMatch : Instr → Nat
  | .writeByte _ _ _ => 0x100000000
  | .writeBytes _ _ _ => 0x200000000
  | .readByte _ _ => 0x300000000
  | .readBytes _ _ _ => 0x400000000
  | .fetchResult _ => 0x500000000
  | .reset => 0x600000000
  | .isBusy => 0x700000000
  | .enable => 0x800000000
  | .disable => 0x900000000
  | .getError => 0xA00000000
  | .getState => 0xB00000000
  | .event _ _ _ => 0x000

/-- The row's `mask`. -/
def rowMask : Instr → Nat
  | .writeByte _ _ _ => 0xF0000FF00
  | .writeBytes _ _ _ => 0xF00000000
  | .readByte _ _ => 0xF0000FFFF
  | .readBytes _ _ _ => 0xF00000000
  | .fetchResult _ => 0xFFFFF0000
  | .reset => 0xFFFFFFFFF
  | .isBusy => 0xFFFFFFFFF
  | .enable => 0xFFFFFFFFF
  | .disable => 0xFFFFFFFFF
  | .getError => 0xFFFFFFFFF
  | .getState => 0xFFFFFFFFF
  | .event _ _ _ => 0x000

/-- The word of `i` matches its row. -/
def Statement (i : Instr) : Prop :=
  match encode i with
  | .request w _ => w &&& BitVec.ofNat 36 (rowMask i) = BitVec.ofNat 36 (rowMatch i)
  | .event w => w &&& BitVec.ofNat 10 (rowMask i) = BitVec.ofNat 10 (rowMatch i)

theorem writeByte (a r d : Byte) : Statement (.writeByte a r d) := by
  apply BitVec.eq_of_getLsbD_eq
  intro k hk
  have hn : (0#8 ++ d : BitVec 16).getLsbD k = if k < 8 then d.getLsbD k else (0#8).getLsbD (k - 8) :=
    (BitVec.getLsbD_append (x := 0#8) (y := d)).trans (by by_cases h : k < 8 <;> simp [h])
  rw [BitVec.getLsbD_and, requestWord_getLsbD, hn]
  interval_cases k <;> simp [rowMask, rowMatch]

theorem writeBytes (a r : Byte) (data : List Byte) : Statement (.writeBytes a r data) := by
  apply BitVec.eq_of_getLsbD_eq
  intro k hk
  rw [BitVec.getLsbD_and, requestWord_getLsbD]
  interval_cases k <;> simp [rowMask, rowMatch]

theorem readByte (a r : Byte) : Statement (.readByte a r) := by
  apply BitVec.eq_of_getLsbD_eq
  intro k hk
  rw [BitVec.getLsbD_and, requestWord_getLsbD]
  interval_cases k <;> simp [rowMask, rowMatch]

theorem readBytes (a r : Byte) (count : BitVec 16) : Statement (.readBytes a r count) := by
  apply BitVec.eq_of_getLsbD_eq
  intro k hk
  rw [BitVec.getLsbD_and, requestWord_getLsbD]
  interval_cases k <;> simp [rowMask, rowMatch]

theorem fetchResult (bufferLen : BitVec 16) : Statement (.fetchResult bufferLen) := by
  apply BitVec.eq_of_getLsbD_eq
  intro k hk
  rw [BitVec.getLsbD_and, requestWord_getLsbD]
  interval_cases k <;> simp [rowMask, rowMatch]

theorem reset : Statement .reset := rfl
theorem isBusy : Statement .isBusy := rfl
theorem enable : Statement .enable := rfl
theorem disable : Statement .disable := rfl
theorem getError : Statement .getError := rfl
theorem getState : Statement .getState := rfl

theorem event (coll nack : Bool) (rxb : Byte) : Statement (.event coll nack rxb) := by
  simp [Statement, encode, rowMask, rowMatch]

end Sys2Proof.Laws.TableRow
end

