-- ==== Sys2Proof/Machine/Assembler.lean ====
section
/-! DEFINITION. The textual syntax of requests, events and outputs (spec/30_encoding.md R85). No step uses it: it
spells the port items for transcribed programs. DESIGN CHOICE (assumption 17) where R85 leaves a form open. -/

namespace Sys2Proof.Machine

/-- A token of a line (R85). -/
inductive AsmToken where
  | word (cs : List Char)
  | comma | opening | closing | equals
  deriving DecidableEq, Repr

/-- The word collected so far, if any. -/
def asmFlush (acc : List Char) : List AsmToken := if acc = [] then [] else [.word acc.reverse]

/-- The tokens of a line; `;` starts a comment. -/
def asmTokens (acc : List Char) : List Char → List AsmToken
  | [] => asmFlush acc
  | c :: cs =>
    if c = ';' then asmFlush acc
    else if c = ' ' ∨ c = '\t' then asmFlush acc ++ asmTokens [] cs
    else if c = ',' then asmFlush acc ++ .comma :: asmTokens [] cs
    else if c = '[' then asmFlush acc ++ .opening :: asmTokens [] cs
    else if c = ']' then asmFlush acc ++ .closing :: asmTokens [] cs
    else if c = '=' then asmFlush acc ++ .equals :: asmTokens [] cs
    else asmTokens (c :: acc) cs

/-- The value of a digit below `base`. -/
def asmDigit (base : Nat) (c : Char) : Option Nat :=
  let v :=
    if '0' ≤ c ∧ c ≤ '9' then c.toNat - 48
    else if 'a' ≤ c ∧ c ≤ 'f' then c.toNat - 87
    else if 'A' ≤ c ∧ c ≤ 'F' then c.toNat - 55
    else base
  if v < base then some v else none

/-- Digits, most significant first, after the value `acc`. -/
def asmDigits (base acc : Nat) : List Char → Option Nat
  | [] => some acc
  | c :: cs =>
    match asmDigit base c with
    | some d => asmDigits base (acc * base + d) cs
    | none => none

/-- A decimal or `0x` hexadecimal number (R85). -/
def asmNumber : List Char → Option Nat
  | [] => none
  | '0' :: 'x' :: [] => none
  | '0' :: 'x' :: cs => asmDigits 16 0 cs
  | c :: cs => asmDigits 10 0 (c :: cs)

/-- A number that is a value of `w` bits. -/
def asmBits (w : Nat) (cs : List Char) : Option (BitVec w) :=
  match asmNumber cs with
  | some n => if n < 2 ^ w then some (BitVec.ofNat w n) else none
  | none => none

/-- The bytes of a data vector after its opening bracket, at least one. -/
def asmItems : List AsmToken → Option (List Byte)
  | [.word d, .closing] =>
    match asmBits 8 d with
    | some b => some [b]
    | none => none
  | .word d :: .comma :: rest =>
    match asmBits 8 d, asmItems rest with
    | some b, some bs => some (b :: bs)
    | _, _ => none
  | _ => none

/-- A data vector after its opening bracket. -/
def asmData : List AsmToken → Option (List Byte)
  | [.closing] => some []
  | ts => asmItems ts

/-- The optional flags of an event, in any order, each at most once. -/
def asmFlags (coll nack : Bool) (rx : Option Byte) : List AsmToken → Option Instr
  | [] => some (.event coll nack (rx.getD 0))
  | .word w :: .equals :: .word v :: rest =>
    if w = "rx".toList ∧ rx = none then
      match asmBits 8 v with
      | some b => asmFlags coll nack (some b) rest
      | none => none
    else none
  | .word w :: rest =>
    if w = "coll".toList ∧ coll = false then asmFlags true nack rx rest
    else if w = "nack".toList ∧ nack = false then asmFlags coll true rx rest
    else none
  | _ => none

/-- The operations without operands (R85). -/
def asmPlain (m : List Char) : Option Instr :=
  if m = "RESET".toList then some .reset
  else if m = "IS_BUSY".toList then some .isBusy
  else if m = "ENABLE".toList then some .enable
  else if m = "DISABLE".toList then some .disable
  else if m = "GET_ERROR".toList then some .getError
  else if m = "GET_STATE".toList then some .getState
  else if m = "EVENT".toList then some (.event false false 0)
  else none

/-- The operation a tokenised line names (R85); `none` if it is not of one of the forms. -/
def asmInstr : List AsmToken → Option Instr
  | [.word m] => asmPlain m
  | [.word m, .word n] =>
    if m = "FETCH_RESULT".toList then
      match asmBits 16 n with
      | some k => some (.fetchResult k)
      | none => none
    else if m = "EVENT".toList then asmFlags false false none [.word n]
    else none
  | [.word m, .word a, .comma, .word r] =>
    if m = "READ_BYTE".toList then
      match asmBits 8 a, asmBits 8 r with
      | some a, some r => some (.readByte a r)
      | _, _ => none
    else none
  | [.word m, .word a, .comma, .word r, .comma, .word n] =>
    if m = "WRITE_BYTE".toList then
      match asmBits 8 a, asmBits 8 r, asmBits 8 n with
      | some a, some r, some d => some (.writeByte a r d)
      | _, _, _ => none
    else if m = "READ_BYTES".toList then
      match asmBits 8 a, asmBits 8 r, asmBits 16 n with
      | some a, some r, some k => some (.readBytes a r k)
      | _, _, _ => none
    else none
  | .word m :: .word a :: .comma :: .word r :: .comma :: .opening :: rest =>
    if m = "WRITE_BYTES".toList then
      match asmBits 8 a, asmBits 8 r, asmData rest with
      | some a, some r, some data => if data.length < 2 ^ 16 then some (.writeBytes a r data) else none
      | _, _, _ => none
    else none
  | .word m :: rest => if m = "EVENT".toList then asmFlags false false none rest else none
  | _ => none

/-- One line: `some none` where it holds nothing but a comment, `some (some x)` where it spells the port item `x`,
`none` where it is not of the syntax. -/
def assembleLine (line : List Char) : Option (Option PortInput) :=
  match asmTokens [] line with
  | [] => some none
  | ts =>
    match asmInstr ts with
    | some i => some (some (encode i))
    | none => none

/-- The port items of a program, one request or event a line. -/
def assemble : List (List Char) → Option (List PortInput)
  | [] => some []
  | line :: lines =>
    match assembleLine line, assemble lines with
    | some none, some xs => some xs
    | some (some x), some xs => some (x :: xs)
    | _, _ => none

/-- A hexadecimal digit, capital letters. -/
def hexDigit (n : Nat) : Char := if n < 10 then Char.ofNat (48 + n) else Char.ofNat (55 + n)

/-- A byte as `0x` and two digits. -/
def showByte (b : Byte) : List Char := ['0', 'x', hexDigit (b.toNat / 16), hexDigit (b.toNat % 16)]

/-- `CMD <kind> [txb]` (R85). -/
def showCommand : Command → List Char
  | .none => "CMD NONE".toList
  | .start => "CMD START".toList
  | .restart => "CMD RESTART".toList
  | .stop => "CMD STOP".toList
  | .tx b => "CMD TX ".toList ++ showByte b
  | .rxen => "CMD RXEN".toList
  | .ack => "CMD ACK".toList

/-- The name of an error code (R83). -/
def showErr : ErrCode → List Char
  | .noError => "NoError".toList
  | .internal => "Internal".toList
  | .inErrorState => "InErrorState".toList
  | .busy => "Busy".toList
  | .txOverflow => "TXOverflow".toList
  | .rxOverflow => "RXOverflow".toList
  | .slaveNack => "SlaveNack".toList
  | .nothingReceived => "NothingReceived".toList
  | .collisionDetected => "CollisionDetected".toList
  | .disabled => "Disabled".toList

/-- The bytes of a data vector, comma-separated. -/
def showBytes : List Byte → List Char
  | [] => []
  | [b] => showByte b
  | b :: c :: bs => showByte b ++ [',', ' '] ++ showBytes (c :: bs)

/-- `RESP <code> [val] [data]` (R85); whether `val` is written is the transcriber's choice. -/
def showResponse (withVal : Bool) (r : Response) : List Char :=
  "RESP ".toList ++ showErr r.code ++ (if withVal then ' ' :: showByte r.val else []) ++
    (if r.data = [] then [] else [' ', '['] ++ showBytes r.data ++ [']'])

end Sys2Proof.Machine
end

