-- ==== Sys2Proof/Tests/Slice0.lean ====
section
/-! SUPPORT. Tests on fixed values taken from spec/95_test_vectors.md, spec/30_encoding.md and the worked examples of
the rules, and for each statement with hypotheses a witness that meets them. -/

namespace Sys2Proof.Machine.Tests

/-! ### Helpers -/

/-- The next state, if there is one. -/
def nextOf : Host.Outcome State Fault Refusal → Option State
  | .next t => some t
  | .fault _ => none
  | .refused _ => none

/-- Whether the outcome is a refusal of an illegal request. -/
def refusedAs : Host.Outcome State Fault Refusal → Option DecodeError
  | .refused (.illegalRequest why) => some why
  | .refused (.notModelled _) => none
  | .next _ => none
  | .fault _ => none

/-- Whether the outcome is the fault of a buffer index. -/
def faulted : Host.Outcome State Fault Refusal → Bool
  | .fault .bufferIndexOutOfRange => true
  | .next _ => false
  | .refused _ => false

/-- A state with capacity `c` and policy `stay`, in Driver State `d`, its event source unmasked. -/
def at' (c : Nat) (stay : Bool) (d : DriverState) : State :=
  { State.powerOn ⟨c, stay, false, ⟨1, true, 2⟩, 0⟩ with state := d, bcOn := true }

/-- The same, an operation outstanding: a delivered event meets its row. -/
def busy (stay : Bool) (d : DriverState) : State := { at' 8 stay d with outstanding := some .tx }

/-- A transmission of `A0 10 7F` (vector V-EV6), its cursor at `n`. -/
def sending (n : Nat) : State :=
  { busy true .transmittingData with buf := [(0, 0xA0), (1, 0x10), (2, 0x7F)], length := 3, cursor := n }

/-- A read of two bytes with `b` in byte 0 and `n` bytes to transmit, all of them sent (vectors V-EV10, V-EV11). -/
def reading (b : Byte) (n : Nat) : State :=
  { busy true .transmittingData with buf := [(0, b), (1, 0x20)], length := n, cursor := n, erc := 2 }

/-- A reception of two bytes, `n` of them captured (vectors V-EV14, V-EV15). -/
def receiving (n : Nat) : State :=
  { busy true .receivingData with
    buf := [(0, 0xA1), (1, 0x20)], length := 1, cursor := n, rxCount := n, erc := 2 }

/-- A finished read of two bytes (vector V-C1). -/
def finished : State := { at' 8 true .idle with buf := [(0, 0x11), (1, 0x22)], rxCount := 2 }

/-- A state with one request on its port. -/
def presenting (w : RequestWord) (data : List Byte) : State := { at' 8 true .idle with inputs := [.request w data] }

/-! ### Well-formed terms, decoding, refusals -/

/-- A vector of 65536 bytes does not fit the 16-bit `len`, one of 65535 does. -/
theorem test_wellFormed_refuses_long_vector {data : List Byte} (h : data.length = 65536) :
    (Instr.writeBytes 0x50 0x10 data).wellFormed = false := by
  simp [Instr.wellFormed, h]

theorem test_wellFormed_admits_longest_vector {data : List Byte} (h : data.length = 65535) :
    (Instr.writeBytes 0x50 0x10 data).wellFormed = true := by
  simp [Instr.wellFormed, h]

/-- Such vectors exist. -/
theorem test_long_vectors_exist : ∃ data : List Byte, data.length = 65536 ∧ (data.drop 1).length = 65535 :=
  ⟨List.replicate 65536 0, List.length_replicate, by rw [List.length_drop, List.length_replicate]⟩

theorem test_decode_writeByte :
    decode (.request 0b0001_01010000_00010000_00000000_01111111 []) = .ok (.writeByte 0x50 0x10 0x7F) := by decide
theorem test_decode_writeBytes :
    decode (.request 0b0010_01010000_00010000_00000000_00000010 [1, 2]) = .ok (.writeBytes 0x50 0x10 [1, 2]) := by
  decide
theorem test_decode_readByte :
    decode (.request 0b0011_01101000_01110101_00000000_00000000 []) = .ok (.readByte 0x68 0x75) := by decide
theorem test_decode_readBytes :
    decode (.request 0b0100_01010000_00100000_00000001_00000010 []) = .ok (.readBytes 0x50 0x20 258) := by decide
theorem test_decode_fetchResult :
    decode (.request 0b0101_00000000_00000000_11111111_11111111 []) = .ok (.fetchResult 0xFFFF) := by decide
theorem test_decode_reset : decode (.request 0b0110_00000000_00000000_00000000_00000000 []) = .ok .reset := by decide
theorem test_decode_isBusy : decode (.request 0b0111_00000000_00000000_00000000_00000000 []) = .ok .isBusy := by decide
theorem test_decode_enable : decode (.request 0b1000_00000000_00000000_00000000_00000000 []) = .ok .enable := by decide
theorem test_decode_disable :
    decode (.request 0b1001_00000000_00000000_00000000_00000000 []) = .ok .disable := by decide
theorem test_decode_getError :
    decode (.request 0b1010_00000000_00000000_00000000_00000000 []) = .ok .getError := by decide
theorem test_decode_getState :
    decode (.request 0b1011_00000000_00000000_00000000_00000000 []) = .ok .getState := by decide
theorem test_decode_event : decode (.event 0b10_01010101) = .ok (.event true false 0x55) ∧
    decode (.event 0b01_00000000) = .ok (.event false true 0x00) := by decide

theorem test_decodeTableWord : decodeTableWord 40 0x15010007F = some (.writeByte 0x50 0x10 0x7F) ∧
    decodeTableWord 40 0x250100002 = some (.writeBytes 0x50 0x10 [0, 0]) ∧
    decodeTableWord 16 0x155 = some (.event false true 0x55) ∧ decodeTableWord 16 0x400 = none ∧
    decodeTableWord 40 0xC00000000 = none := by decide

/-- The word of each operation runs as the first step after power-on, an event in `Disabled` too. -/
theorem test_withFetchWord_runs :
    (nextOf (step (State.reset.withFetchWord 40 0x15010007F))).map (·.resp) = some (some ⟨.disabled, 0, []⟩) ∧
    (nextOf (step (State.reset.withFetchWord 40 0x800000000))).map (·.state) = some .idle ∧
    (nextOf (step (State.reset.withFetchWord 16 0x155))).map (fun t => (t.state, t.outstanding)) =
      some (.disabled, none) := by decide

/-- Vectors V-R1 to V-R7, and a data vector beside a word that has none: a witness for each clause of
`IllegalRequestsAreRefused`. -/
theorem witness_IllegalRequestsAreRefused :
    refusedAs (step (presenting 0x000000000 [])) = some (.reservedOpcode 0x0) ∧
    refusedAs (step (presenting 0xC00000000 [])) = some (.reservedOpcode 0xC) ∧
    refusedAs (step (presenting 0xF00000000 [])) = some (.reservedOpcode 0xF) ∧
    refusedAs (step (presenting 0x150100100 [])) = some (.nonzeroField 0x1) ∧
    refusedAs (step (presenting 0x250100002 [1, 2, 3])) = some (.dataLength 2 3) ∧
    refusedAs (step (presenting 0x368750001 [])) = some (.nonzeroField 0x3) ∧
    refusedAs (step (presenting 0x501000002 [])) = some (.nonzeroField 0x5) ∧
    refusedAs (step (presenting 0x500010002 [])) = some (.nonzeroField 0x5) ∧
    refusedAs (step (presenting 0x600000001 [])) = some (.nonzeroField 0x6) ∧
    refusedAs (step (presenting 0xB01000000 [])) = some (.nonzeroField 0xB) ∧
    refusedAs (step (presenting 0x600000000 [7])) = some (.strayData 0x6) := by decide

theorem witness_DecodeOfEncode : (Instr.writeBytes 0x50 0x10 [1, 2]).WellFormed := by decide
theorem witness_EncodeOfDecode : decode (.request 0x250100002 [1, 2]) = .ok (.writeBytes 0x50 0x10 [1, 2]) := by decide
theorem witness_StepRunsTheDecodedInput :
    (presenting 0x700000000 []).inputs = .request 0x700000000 [] :: [] ∧
    decode (.request 0x700000000 []) = .ok .isBusy := by decide
theorem witness_StepWaitsWithoutInput : (at' 8 true .idle).inputs = [] := by decide

/-! ### Enqueue operations: the five clauses of each, the capacity at its boundary -/

/-- Vectors V-E1, V-E15, V-E22; witnesses for `WriteByteResult`. -/
theorem witness_WriteByteResult :
    (nextOf (exec (.writeByte 0x50 0x10 0x7F) { at' 8 true .disabled with err := .slaveNack })).map (·.resp) =
      some (some ⟨.inErrorState, 0, []⟩) ∧
    (nextOf (exec (.writeByte 0x50 0x10 0x7F) (at' 8 true .disabled))).map (·.resp) = some (some ⟨.disabled, 0, []⟩) ∧
    (nextOf (exec (.writeByte 0x50 0x10 0x7F) (at' 8 true .sendingStart))).map (·.resp) = some (some ⟨.busy, 0, []⟩) ∧
    (nextOf (exec (.writeByte 0x68 0x75 0x00) (at' 2 true .idle))).map (·.resp) = some (some ⟨.txOverflow, 0, []⟩) ∧
    (nextOf (exec (.writeByte 0x50 0x10 0x7F) (at' 3 true .idle))).map
      (fun t => (t.resp, t.buf, t.length, t.state, t.cmd)) =
      some (some ⟨.noError, 0, []⟩, [(0, 0xA0), (1, 0x10), (2, 0x7F)], 3, .sendingStart, .start) := by decide

/-- Vectors V-E4, V-E5, V-E20; witnesses for `WriteBytesResult`. -/
theorem witness_WriteBytesResult :
    (nextOf (exec (.writeBytes 0x50 0x10 []) { at' 8 true .idle with err := .collisionDetected })).map (·.resp) =
      some (some ⟨.inErrorState, 0, []⟩) ∧
    (nextOf (exec (.writeBytes 0x50 0x10 []) (at' 8 true .disabled))).map (·.resp) = some (some ⟨.disabled, 0, []⟩) ∧
    (nextOf (exec (.writeBytes 0x50 0x10 [1, 2, 3, 4, 5, 6, 7]) (at' 8 true .sendingStart))).map (·.resp) =
      some (some ⟨.busy, 0, []⟩) ∧
    (nextOf (exec (.writeBytes 0x50 0x10 [1, 2, 3, 4, 5, 6, 7]) (at' 8 true .idle))).map (fun t => (t.resp, t.state)) =
      some (some ⟨.txOverflow, 0, []⟩, .idle) ∧
    (nextOf (exec (.writeBytes 0x50 0x10 [1, 2, 3, 4, 5, 6]) (at' 8 true .idle))).map (fun t => (t.length, t.buf)) =
      some (8, [(0, 0xA0), (1, 0x10), (2, 1), (3, 2), (4, 3), (5, 4), (6, 5), (7, 6)]) := by decide

/-- Vector V-E26: the overrun; V-E27: bytes 3 to 7 keep their values. -/
theorem test_writeByte_overrun_and_old_bytes :
    (nextOf (exec (.writeByte 0x50 0x10 0x7F) { at' 8 true .idle with
      outstanding := some .tx, buf := [(0, 0x11), (1, 0x22), (2, 0x33), (3, 0x44), (7, 0x88)] })).map
      (fun t => (t.modelFault, t.outstanding, t.buf)) =
    some ([.busOverrun], some .start, [(0, 0xA0), (1, 0x10), (2, 0x7F), (3, 0x44), (7, 0x88)]) := by decide

/-- Vectors V-E8, V-E9, V-E21, V-E25; witnesses for `ReadBytesResult`. -/
theorem witness_ReadBytesResult :
    (nextOf (exec (.readBytes 0x50 0x20 1) { at' 8 false .sendingStop with err := .slaveNack })).map (·.resp) =
      some (some ⟨.inErrorState, 0, []⟩) ∧
    (nextOf (exec (.readBytes 0x50 0x20 8) (at' 8 true .disabled))).map (·.resp) = some (some ⟨.disabled, 0, []⟩) ∧
    (nextOf (exec (.readBytes 0x50 0x20 1) (at' 8 true .sendingAck))).map (·.resp) = some (some ⟨.busy, 0, []⟩) ∧
    (nextOf (exec (.readBytes 0x50 0x20 8) (at' 8 true .idle))).map (·.resp) = some (some ⟨.rxOverflow, 0, []⟩) ∧
    (nextOf (exec (.readBytes 0x68 0x75 0) (at' 1 true .idle))).map (·.resp) = some (some ⟨.rxOverflow, 0, []⟩) ∧
    (nextOf (exec (.readBytes 0x50 0x20 7) (at' 8 true .idle))).map (fun t => (t.erc, t.length, t.buf)) =
      some (7, 2, [(0, 0xA0), (1, 0x20)]) := by decide

/-- Vectors V-E12, V-E16, V-E24; witnesses for `ReadByteResult`. -/
theorem witness_ReadByteResult :
    (nextOf (exec (.readByte 0x50 0x20) { at' 8 true .error with err := .internal })).map (·.resp) =
      some (some ⟨.inErrorState, 0, []⟩) ∧
    (nextOf (exec (.readByte 0x50 0x20) (at' 8 true .disabled))).map (·.resp) = some (some ⟨.disabled, 0, []⟩) ∧
    (nextOf (exec (.readByte 0x50 0x20) (at' 8 true .receivingData))).map (·.resp) = some (some ⟨.busy, 0, []⟩) ∧
    (nextOf (exec (.readByte 0x68 0x75) (at' 1 true .idle))).map (·.resp) = some (some ⟨.rxOverflow, 0, []⟩) ∧
    (nextOf (exec (.readByte 0x68 0x75) (at' 2 true .idle))).map (fun t => (t.erc, t.buf)) =
      some (1, [(0, 0xD0), (1, 0x75)]) := by decide

/-- Vectors V-E17 to V-E19 (R106). -/
theorem test_addrByte : addrByte 0xFF = 0xFE ∧ addrByte 0x80 = 0x00 ∧ addrByte 0x7F = 0xFE ∧ addrByte 0x50 = 0xA0 := by
  decide

theorem witness_FailedEnqueueChangesNothing : isEnqueue (.readByte 0x68 0x75) = true ∧
    exec (.readByte 0x68 0x75) (at' 1 true .idle) = .next ((at' 1 true .idle).answering .rxOverflow 0 []) ∧
    ((at' 1 true .idle).answering .rxOverflow 0 []).resp ≠ some ⟨.noError, 0, []⟩ := ⟨rfl, rfl, by decide⟩
theorem witness_EnqueueCheckOrder : isEnqueue (.writeBytes 0x50 0x10 []) = true ∧
    (at' 8 true .disabled).err = .noError ∧ (at' 8 true .sendingStop).state ≠ .idle := by decide
theorem witness_SmallCapacities : (at' 1 true .idle).err = .noError ∧ (at' 1 true .idle).state = .idle ∧
    (at' 1 true .idle).params.C < 2 ∧ (at' 2 true .idle).params.C = 2 ∧
    (nextOf (exec (.writeBytes 0x68 0x75 []) (at' 2 true .idle))).map (·.resp) = some (some ⟨.noError, 0, []⟩) ∧
    (nextOf (exec (.writeBytes 0x68 0x75 [0]) (at' 2 true .idle))).map (·.resp) =
      some (some ⟨.txOverflow, 0, []⟩) := by decide

/-! ### Control and observation -/

/-- Vectors V-C1 to V-C8 and a counter past the buffer: each clause of `FetchResultAnswers`. -/
theorem witness_FetchResultAnswers :
    (nextOf (exec (.fetchResult 8) { finished with err := .slaveNack })).map (·.resp) =
      some (some ⟨.inErrorState, 0, []⟩) ∧
    (nextOf (exec (.fetchResult 8) (at' 8 true .disabled))).map (·.resp) = some (some ⟨.disabled, 0, []⟩) ∧
    (nextOf (exec (.fetchResult 8) (at' 8 true .sendingAck))).map (·.resp) = some (some ⟨.busy, 0, []⟩) ∧
    (nextOf (exec (.fetchResult 0) (at' 8 true .idle))).map (·.resp) = some (some ⟨.nothingReceived, 0, []⟩) ∧
    (nextOf (exec (.fetchResult 1) finished)).map (·.resp) = some (some ⟨.rxOverflow, 0, []⟩) ∧
    (nextOf (exec (.fetchResult 2) finished)).map (·.resp) = some (some ⟨.noError, 0, [0x11, 0x22]⟩) ∧
    faulted (exec (.fetchResult 9) { at' 8 true .idle with rxCount := 9 }) = true := by decide
theorem witness_FetchResultPastBufferFaults :
    ({ at' 8 true .idle with rxCount := 9 } : State).err = .noError ∧
    ({ at' 8 true .idle with rxCount := 9 } : State).params.C < 9 ∧ 9 ≤ (9 : BitVec 16).toNat := by decide
theorem witness_FetchResultIsIdempotent :
    exec (.fetchResult 2) finished = .next (finished.answering .noError 0 [0x11, 0x22]) := rfl

/-- Vector V-C12: RESET leaves the outstanding operation. -/
theorem test_reset : (nextOf (exec .reset (sending 1))).map (fun t => (t.state, t.outstanding, t.length, t.cursor)) =
    some (.idle, some .tx, 0, 0) := by decide
/-- Vector V-C14; witnesses for `IsBusyAnswers`. -/
theorem witness_IsBusyAnswers :
    (nextOf (exec .isBusy (at' 8 true .error))).map (·.resp) = some (some ⟨.noError, 0, []⟩) ∧
    (nextOf (exec .isBusy (at' 8 true .disabled))).map (·.resp) = some (some ⟨.noError, 1, []⟩) := by decide
/-- Vector V-C17. -/
theorem test_enable : (nextOf (exec .enable (receiving 1))).map
      (fun t => (t.state, t.outstanding, t.rxCount, t.bcOn, t.bc)) =
    some (.idle, none, 0, true, .init ⟨1, true, 2⟩) := by decide
/-- Vector V-C18. -/
theorem test_disable : (nextOf (exec .disable (sending 1))).map (fun t => (t.state, t.bcOn, t.outstanding, t.cursor)) =
    some (.disabled, false, none, 1) := by decide
/-- Vectors V-C20, V-C24. -/
theorem test_getError : (nextOf (exec .getError { at' 8 true .idle with err := .slaveNack })).map (·.resp) =
    some (some ⟨.noError, 0x06, []⟩) := by decide
/-- Vectors V-C22, V-C23. -/
theorem test_getState :
    (nextOf (exec .getState (State.powerOn ⟨8, true, false, ⟨1, true, 2⟩, 0⟩))).map (·.resp) =
      some (some ⟨.noError, 0x08, []⟩) ∧
    (nextOf (exec .getState (at' 8 true .sendingStop))).map (·.resp) = some (some ⟨.noError, 0x06, []⟩) := by decide

/-! ### The event step: a witness for each row, the results from section 4 of spec/95_test_vectors.md -/

/-- Vectors V-EV33, V-EV34: the two ways an event is not delivered. -/
theorem witness_UndeliveredEventChangesNothing : ¬ (at' 8 true .idle).deliverable ∧
    ¬ ({ busy true .disabled with bcOn := false } : State).deliverable := by decide

/-- Vectors V-EV23, V-EV26, V-EV31; the three clauses of `CollisionOverrides`. -/
theorem witness_CollisionOverrides :
    (busy true .disabled).deliverable ∧ (busy true .error).deliverable ∧ (busy false .sendingStart).deliverable ∧
    (nextOf (exec (.event true false 0) { busy true .error with err := .slaveNack })).map (fun t => (t.err, t.state)) =
      some (.collisionDetected, .error) ∧
    (nextOf (exec (.event true true 0) (busy false .sendingStart))).map (fun t => (t.err, t.state, t.cmd)) =
      some (.collisionDetected, .sendingStop, .stop) ∧
    (nextOf (exec (.event true false 0) { busy false .sendingStop with err := .slaveNack })).map
      (fun t => (t.err, t.state, t.cmd)) = some (.collisionDetected, .idle, .none) := by decide

/-- Vectors V-EV28, V-EV29. -/
theorem witness_EventInIdle : (busy true .idle).deliverable ∧
    (nextOf (exec (.event false false 0) (busy true .idle))).map (fun t => (t.err, t.state, t.cmd)) =
      some (.internal, .error, .none) ∧
    (nextOf (exec (.event false false 0) (busy false .idle))).map (fun t => (t.err, t.state, t.cmd)) =
      some (.internal, .sendingStop, .stop) := by decide

/-- Vectors V-EV2, V-EV4, V-EV5. -/
theorem witness_ConditionDoneSendsByte :
    ({ sending 0 with state := .sendingStart } : State).deliverable ∧ (sending 0).memRead 0 = some 0xA0 ∧
    (nextOf (exec (.event false true 0x55) { sending 0 with state := .sendingStart })).map
      (fun t => (t.cmd, t.cursor, t.state, t.outstanding)) = some (.tx 0xA0, 1, .transmittingData, some .tx) ∧
    (nextOf (exec (.event false false 0) { sending 2 with state := .sendingRestart })).map (fun t => (t.cmd, t.cursor)) =
      some (.tx 0x7F, 3) ∧
    (nextOf (exec (.event false false 0) (busy false .sendingStart))).map (fun t => (t.err, t.state, t.cmd)) =
      some (.internal, .sendingStop, .stop) := by decide

/-- Vectors V-EV8, V-EV9. -/
theorem witness_NackIssuesStop : (sending 3).deliverable ∧
    (nextOf (exec (.event false true 0) (sending 3))).map (fun t => (t.err, t.cmd, t.state, t.cursor)) =
      some (.slaveNack, .stop, .sendingStop, 3) := by decide

/-- Vector V-EV6, and the last byte. -/
theorem witness_AcknowledgedByteSendsNext : (sending 2).deliverable ∧ (sending 2).memRead 2 = some 0x7F ∧
    (nextOf (exec (.event false false 0) (sending 1))).map (fun t => (t.cmd, t.cursor)) = some (.tx 0x10, 2) := by decide

/-- Vector V-EV7. -/
theorem witness_WriteCompleteStops : (sending 3).deliverable ∧ (sending 3).cursor = (sending 3).length ∧
    (nextOf (exec (.event false false 0) (sending 3))).map (fun t => (t.cmd, t.state)) = some (.stop, .sendingStop) := by
  decide

/-- Vector V-EV10. -/
theorem witness_TurnaroundRestarts : (reading 0xA0 2).deliverable ∧ (reading 0xA0 2).memRead 0 = some 0xA0 ∧
    (nextOf (exec (.event false false 0) (reading 0xA0 2))).map (fun t => (t.buf, t.length, t.cursor, t.cmd, t.state)) =
      some ([(0, 0xA1), (1, 0x20)], 1, 0, .restart, .sendingRestart) := by decide

/-- Vector V-EV11. -/
theorem witness_ReadAddressedReceives : (reading 0xA1 1).deliverable ∧ (reading 0xA1 1).memRead 0 = some 0xA1 ∧
    (nextOf (exec (.event false false 0) (reading 0xA1 1))).map (fun t => (t.cursor, t.cmd, t.state)) =
      some (0, .rxen, .receivingData) := by decide

/-- Vector V-EV13. -/
theorem witness_CursorPastLengthIsInternal : (sending 4).deliverable ∧ (sending 4).length < (sending 4).cursor ∧
    (nextOf (exec (.event false false 0) (sending 4))).map (fun t => (t.err, t.state)) = some (.internal, .error) := by
  decide

/-- Vectors V-EV14, V-EV15, V-EV17; the clauses of `ReceivedByteIsStored` where they meet. -/
theorem witness_ReceivedByteIsStored : (receiving 1).deliverable ∧
    (nextOf (exec (.event false false 0x11) (receiving 0))).map (fun t => (t.buf, t.rxCount, t.cmd, t.state)) =
      some ([(0, 0x11), (1, 0x20)], 1, .ack, .sendingAck) ∧
    (nextOf (exec (.event false false 0x22) (receiving 1))).map (fun t => (t.buf, t.rxCount, t.cmd, t.state)) =
      some ([(0, 0xA1), (1, 0x22)], 2, .stop, .sendingStop) ∧
    (nextOf (exec (.event false false 0x33) (receiving 2))).map (fun t => (t.buf, t.err)) =
      some ([(0, 0xA1), (1, 0x20)], .internal) ∧
    (nextOf (exec (.event false false 0x33) { receiving 8 with erc := 9 })).map (·.err) = some .internal := by decide

/-- Vector V-EV18. -/
theorem witness_AcknowledgeDoneReceives : (busy true .sendingAck).deliverable ∧
    (nextOf (exec (.event false false 0) (busy true .sendingAck))).map (fun t => (t.cmd, t.state)) =
      some (.rxen, .receivingData) := by decide

/-- Vectors V-EV19 to V-EV21. -/
theorem witness_StopDoneEndsTransaction : (busy true .sendingStop).deliverable ∧
    (nextOf (exec (.event false false 0) { busy true .sendingStop with err := .slaveNack })).map (·.state) =
      some .error ∧
    (nextOf (exec (.event false false 0) (busy true .sendingStop))).map (·.state) = some .idle ∧
    (nextOf (exec (.event false false 0) { busy false .sendingStop with err := .slaveNack })).map
      (fun t => (t.state, t.err)) = some (.idle, .slaveNack) := by decide

/-- Vectors V-EV32, V-EV33. -/
theorem witness_ErrorAndDisabledIgnoreEvents :
    (busy true .error).state = .error ∧ (busy true .error).deliverable ∧ ¬ (at' 8 true .disabled).deliverable ∧
    (nextOf (exec (.event false true 0x55) { busy true .error with err := .slaveNack })).map (fun t => (t.state, t.err)) =
      some (.error, .slaveNack) := by decide

theorem witness_TransmitPastBufferIsInternal : ({ sending 8 with length := 9 } : State).deliverable ∧
    (nextOf (exec (.event false false 0) { sending 8 with length := 9 })).map (fun t => (t.err, t.state)) =
      some (.internal, .error) := by decide

theorem witness_UnusedEventFieldsIgnored :
    (busy true .sendingAck).state ≠ .transmittingData ∧ (sending 1).state ≠ .receivingData := by decide

/-! ### Rules of the whole machine -/

/-- A state in the middle of a write, one in the middle of a read, and the finished read meet the invariant. -/
theorem sending_inv : (sending 2).Inv :=
  ⟨by decide, by decide, by decide, by decide, by decide, by decide, by decide, by decide⟩
theorem receiving_inv : (receiving 1).Inv :=
  ⟨by decide, by decide, by decide, by decide, by decide, by decide, by decide, by decide⟩
theorem finished_inv : finished.Inv :=
  ⟨by decide, by decide, by decide, by decide, by decide, by decide, by decide, by decide⟩

theorem withInput_inv (x : PortInput) {s : State} (h : s.Inv) : ({ s with inputs := [x] } : State).Inv :=
  ⟨h.buf, h.counters, h.err, h.mask, h.transmit, h.receive, h.captured, h.marks⟩

theorem witness_StepKeepsInvariant : ({ receiving 1 with inputs := [.event 0x022] } : State).Inv ∧
    ∃ t, step { receiving 1 with inputs := [.event 0x022] } = .next t := ⟨withInput_inv _ receiving_inv, _, rfl⟩
theorem witness_EveryOperationCompletes : (sending 2).Inv := sending_inv
theorem witness_PowerOnBytesNeverRead : finished.Inv ∧ ∃ t, exec (.fetchResult 2) finished = .next t :=
  ⟨finished_inv, _, rfl⟩
theorem witness_ConfigurationIsOpaque : ∃ t, exec .enable (sending 1) = .next t := ⟨_, rfl⟩
theorem witness_CommandBecomesOutstanding :
    (nextOf (exec (.event false false 0) (sending 1))).map (·.cmd) = some (.tx 0x10) ∧
    isEvent (.event false false 0) = true ∧ (busy true .sendingStop).deliverable ∧
    (nextOf (exec (.event false false 0) (busy true .sendingStop))).map (·.cmd) = some .none := by decide
theorem witness_OverrunMarkedByEnqueueOnly : ∃ t, exec (.readByte 0x50 0x20) (busy true .idle) = .next t := ⟨_, rfl⟩
theorem witness_ErrorRecordWriters : (∃ t, exec .reset (sending 1) = .next t) ∧
    (∃ t, exec .enable (sending 1) = .next t) ∧ ∃ t, exec (.event false true 0) (sending 1) = .next t :=
  ⟨⟨_, rfl⟩, ⟨_, rfl⟩, ⟨_, rfl⟩⟩
theorem witness_EventMaskWriters : ∃ t, exec .disable (sending 1) = .next t := ⟨_, rfl⟩
theorem witness_ParametersFixedMarksKept :
    ∃ t, exec .reset { busy true .idle with modelFault := [.busOverrun] } = .next t := ⟨_, rfl⟩
theorem witness_BufferOwnership : (∃ t, exec (.event false false 0x55) (busy true .idle) = .next t) ∧
    ¬ (isEnqueue (.event false false 0x55) = true ∧ (busy true .idle).state = .idle) ∧
    ¬ (isEvent (.event false false 0x55) = true ∧ (busy true .idle).state ≠ .idle ∧ (busy true .idle).state ≠ .error ∧
      (busy true .idle).state ≠ .disabled) := ⟨⟨_, rfl⟩, by decide, by decide⟩
theorem witness_NothingOutstandingAtRest :
    (busy true .sendingStop).params.spurious = false ∧ (busy true .sendingStop).settled ∧
    ¬ ((Instr.event false false 0) = .reset ∧ (busy true .sendingStop).state.busy = true) ∧
    (nextOf (exec (.event false false 0) (busy true .sendingStop))).map (fun t => (t.state, t.outstanding)) =
      some (.idle, none) := by decide
theorem witness_MaskedStartHangs :
    ({ at' 8 true .sendingStart with bcOn := false, inputs := [.event 0x000] } : State).bcOn = false ∧
    ({ at' 8 true .sendingStart with bcOn := false, inputs := [.event 0x000] } : State).inputs =
      [(0x000 : EventWord)].map .event := by decide

/-- A ready core that finds `x` and `n` clean events on its ports. -/
def running (C : Nat) (x : PortInput) (n : Nat) : State :=
  { at' C true .idle with inputs := x :: (List.replicate n (0 : Byte)).map cleanEvent }

/-- The write clause of `TransactionLengths` at `len = 0` and, by WRITE_BYTE, at `len = 1`, each in the smallest
buffer that holds it. -/
theorem witness_TransactionLengths_write :
    ((running 2 (encode (.writeBytes 0x50 0x10 [])) 4).ready ∧ (Instr.writeBytes 0x50 0x10 []).WellFormed ∧
      2 + ([] : List Byte).length ≤ 2 ∧ (List.replicate 4 (0 : Byte)).length = ([] : List Byte).length + 4) ∧
    ((running 3 (encode (.writeByte 0x50 0x10 0x7F)) 5).ready ∧ (Instr.writeBytes 0x50 0x10 [0x7F]).WellFormed ∧
      2 + [(0x7F : Byte)].length ≤ 3 ∧ (List.replicate 5 (0 : Byte)).length = [(0x7F : Byte)].length + 4) := by decide

/-- The read clause at `count = 1`, by READ_BYTES and by READ_BYTE, in the smallest buffer that holds it. -/
theorem witness_TransactionLengths_read :
    (running 2 (encode (.readBytes 0x50 0x10 1)) 7).ready ∧ (running 2 (encode (.readByte 0x50 0x10)) 7).ready ∧
    1 ≤ (1 : BitVec 16).toNat ∧ 1 + (1 : BitVec 16).toNat ≤ 2 ∧
    (List.replicate 7 (0 : Byte)).length = 2 * (1 : BitVec 16).toNat + 5 := by decide

/-- The clause of the read of no byte. -/
theorem witness_TransactionLengths_empty :
    (running 2 (encode (.readBytes 0x50 0x10 0)) 4).ready ∧ 2 ≤ (running 2 (encode (.readBytes 0x50 0x10 0)) 4).params.C ∧
    (List.replicate 4 (0 : Byte)).length = 4 := by decide

theorem witness_InstancesIndependent :
    ∃ z, System.stepAt 1 ⟨[finished, presenting 0x600000000 []]⟩ = some (.next z) := ⟨_, rfl⟩

/-! ### Textual syntax (R85) -/

theorem test_assemble :
    assembleLine "WRITE_BYTES 0x50, 0x10, [0x01, 2] ; note".toList = some (some (.request 0x250100002 [1, 2])) ∧
    assembleLine "EVENT coll nack rx=0xFF".toList = some (some (.event 0x3FF)) ∧
    assembleLine "WRITE_BYTE 0x50, 0x10, 256".toList = none := by decide

theorem test_show : showCommand (.tx 0xA0) = "CMD TX 0xA0".toList ∧
    showResponse false ⟨.noError, 0, [0x11, 0x22]⟩ = "RESP NoError [0x11, 0x22]".toList := by decide

end Sys2Proof.Machine.Tests
end

/-! The grounds on which a request is refused (spec/30_encoding.md R76), each as the error `decodeRequest` answers,
and that an error of the decoder refuses the step. -/

namespace Sys2Proof

/-- A nonzero field that R74 marks 0 comes before any look at the data vector. -/
theorem plainRequest_nonzeroField (op : BitVec 4) {zeroFields : Bool} (data : List Byte) (i : Instr)
    (h : zeroFields = false) : plainRequest op zeroFields data i = .error (.nonzeroField op) :=
  if_pos h

section
variable {w : RequestWord}

theorem decodeRequest_reservedOpcode (data : List Byte) (h : reqOp w = 0x0 ∨ 0xC ≤ reqOp w) :
    decodeRequest w data = .error (.reservedOpcode (reqOp w)) := by
  unfold decodeRequest
  generalize reqOp w = op at h ⊢
  obtain rfl | rfl | rfl | rfl | rfl : op = 0x0 ∨ op = 0xC ∨ op = 0xD ∨ op = 0xE ∨ op = 0xF := by
    revert op; decide
  all_goals rfl

theorem decodeRequest_writeByte_nonzero (data : List Byte) (hop : reqOp w = 0x1) (h : reqNHigh w ≠ 0) :
    decodeRequest w data = .error (.nonzeroField 0x1) := by
  rw [decodeRequest, hop]
  exact plainRequest_nonzeroField _ _ _ (decide_eq_false h)

theorem decodeRequest_writeBytes_dataLength {data : List Byte} (hop : reqOp w = 0x2)
    (h : data.length ≠ (reqN w).toNat) :
    decodeRequest w data = .error (.dataLength (reqN w).toNat data.length) := by
  simp [decodeRequest, hop, h]

theorem decodeRequest_readByte_nonzero (data : List Byte) (hop : reqOp w = 0x3) (h : reqN w ≠ 0) :
    decodeRequest w data = .error (.nonzeroField 0x3) := by
  rw [decodeRequest, hop]
  exact plainRequest_nonzeroField _ _ _ (decide_eq_false h)

theorem decodeRequest_fetchResult_nonzero (data : List Byte) (hop : reqOp w = 0x5)
    (h : reqA w ≠ 0 ∨ reqR w ≠ 0) : decodeRequest w data = .error (.nonzeroField 0x5) := by
  have hz : (decide (reqA w = 0) && decide (reqR w = 0)) = false := by
    simpa [Decidable.imp_iff_not_or] using h
  rw [decodeRequest, hop]
  exact plainRequest_nonzeroField _ _ _ hz

/-- The six operations without an operand, RESET to GET_STATE (R73, R74). -/
theorem decodeRequest_noOperand_nonzero (data : List Byte) (hlo : 0x6 ≤ reqOp w) (hhi : reqOp w ≤ 0xB)
    (h : reqA w ≠ 0 ∨ reqR w ≠ 0 ∨ reqN w ≠ 0) :
    decodeRequest w data = .error (.nonzeroField (reqOp w)) := by
  have hz : (decide (reqA w = 0) && decide (reqR w = 0) && decide (reqN w = 0)) = false := by
    simpa [Decidable.imp_iff_not_or, or_assoc] using h
  unfold decodeRequest
  generalize reqOp w = op at hlo hhi ⊢
  obtain rfl | rfl | rfl | rfl | rfl | rfl :
      op = 0x6 ∨ op = 0x7 ∨ op = 0x8 ∨ op = 0x9 ∨ op = 0xA ∨ op = 0xB := by
    revert op; decide
  all_goals exact plainRequest_nonzeroField _ _ _ hz

end

end Sys2Proof

namespace Sys2Proof.Machine

/-- What the decoder rejects, the step refuses. -/
theorem step_refused_of_decode_error {s : State} {x : PortInput} {rest : List PortInput} {why : DecodeError}
    (hs : s.inputs = x :: rest) (hd : decode x = .error why) : step s = .refused (.illegalRequest why) := by
  simp [step, hs, hd]

/-- Settles O4: each ground of R76 is an error of the decoder. -/
theorem illegalRequestsAreRefused : Obligations.IllegalRequestsAreRefused := by
  intro s w data rest hs hbad
  have hstep {why : DecodeError} (hd : decodeRequest w data = .error why) :
      ∃ why, step s = .refused (.illegalRequest why) := ⟨why, step_refused_of_decode_error hs hd⟩
  rcases hbad with hop | hop | ⟨hop, h⟩ | ⟨hop, h⟩ | ⟨hop, h⟩ | ⟨hop, h⟩ | ⟨hlo, hhi, h⟩
  · exact hstep (decodeRequest_reservedOpcode data (.inl hop))
  · exact hstep (decodeRequest_reservedOpcode data (.inr hop))
  · exact hstep (decodeRequest_writeByte_nonzero data hop h)
  · exact hstep (decodeRequest_writeBytes_dataLength hop h)
  · exact hstep (decodeRequest_readByte_nonzero data hop h)
  · exact hstep (decodeRequest_fetchResult_nonzero data hop h)
  · exact hstep (decodeRequest_noOperand_nonzero data hlo hhi h)

end Sys2Proof.Machine

/-! The four enqueue operations (spec/40_enqueue.md R100 to R105): the checks of R101 as rules, what a loaded
transaction is, and that every operation whose meaning is the shared `enqueue` answers as R101 orders. -/

namespace Sys2Proof.Machine

section
variable {s : State}

/-! ### The checks of R101, one rule each -/

theorem State.accessCheck_of_err (herr : s.err ≠ .noError) : s.accessCheck = some .inErrorState :=
  if_pos herr

theorem State.accessCheck_of_disabled (herr : s.err = .noError) (hst : s.state = .disabled) :
    s.accessCheck = some .disabled := by
  simp [State.accessCheck, herr, hst]

theorem State.accessCheck_of_busy (herr : s.err = .noError) (hdis : s.state ≠ .disabled) (hidle : s.state ≠ .idle) :
    s.accessCheck = some .busy := by
  simp [State.accessCheck, herr, hdis, hidle]

/-! ### The loaded transaction -/

/-- Bytes that fit the buffer are all read back, and no other byte changes (R53, R107). -/
theorem State.startedAs_loaded {bytes : List Byte} (hC : bytes.length ≤ s.params.C) (count : Nat) :
    s.startedAs (s.loaded bytes count) bytes count := by
  refine ⟨⟨rfl, rfl, rfl, rfl, rfl⟩, ⟨rfl, rfl, rfl, rfl⟩, fun hnone => ?_, fun hsome k => ?_, ⟨rfl, rfl, rfl, rfl⟩,
    fun i hi => ?_, fun i hi => ?_⟩
  · simp [State.loaded, hnone]
  · have hmark : (s.loaded bytes count).modelFault = addFault .busOverrun s.modelFault :=
      if_pos (Option.isSome_iff_ne_none.2 hsome)
    rw [hmark, mem_addFault]
  · rw [State.memRead_loaded, dif_pos ⟨hi, by omega⟩]
  · rw [State.memRead_loaded, dif_neg (by omega)]

/-! ### From the shared operation to the statements -/

/-- An operation that is the shared enqueue, its capacity check deciding `P`, answers by the checks of R101 in their
order and loads its bytes where they fit. -/
theorem State.enqueuesAs_of_exec {i : Instr} {fits : Bool} {P : Prop} {overflow : ErrCode} {bytes : List Byte}
    {count : Nat} (hexec : exec i s = .next (s.enqueue fits overflow bytes count)) (hfits : fits = true ↔ P)
    (hC : P → bytes.length ≤ s.params.C) : s.enqueuesAs i P overflow bytes count := by
  unfold State.enqueuesAs
  rw [hexec]
  refine ⟨fun herr => ?_, fun herr hst => ?_, fun herr hdis hidle => ?_, fun herr hst hP => ?_, fun herr hst hP => ?_⟩
  · rw [State.enqueue_checked (State.accessCheck_of_err herr)]
  · rw [State.enqueue_checked (State.accessCheck_of_disabled herr hst)]
  · rw [State.enqueue_checked (State.accessCheck_of_busy herr hdis hidle)]
  · obtain rfl : fits = false := Bool.eq_false_iff.2 (mt hfits.1 hP)
    rw [State.enqueue_overflow (State.accessCheck_eq_none.2 ⟨herr, hst⟩)]
  · obtain rfl : fits = true := hfits.2 hP
    rw [State.enqueue_loaded (State.accessCheck_eq_none.2 ⟨herr, hst⟩)]
    exact ⟨_, rfl, State.startedAs_loaded (hC hP) count⟩

theorem State.writeFits_iff (len : Nat) : s.writeFits len = true ↔ 2 + len ≤ s.params.C := decide_eq_true_iff

theorem State.readFits_iff (count : Nat) :
    s.readFits count = true ↔ ¬ (2 > s.params.C ∨ 1 + count > s.params.C) := by
  simp only [State.readFits, Bool.and_eq_true, decide_eq_true_eq]
  omega

end

/-- Settles O11: WRITE_BYTES is the shared enqueue of its `2 + len` bytes. -/
theorem writeBytesResult : Obligations.WriteBytesResult := by
  intro a r data s
  refine State.enqueuesAs_of_exec rfl (State.writeFits_iff data.length) fun hfit => ?_
  simp only [List.length_cons]
  omega

/-- Settles O12: WRITE_BYTE is the shared enqueue of three bytes. -/
theorem writeByteResult : Obligations.WriteByteResult := fun _ _ _ _ =>
  State.enqueuesAs_of_exec rfl (State.writeFits_iff 1) id

/-- Settles O13: READ_BYTES is the shared enqueue of two bytes, which its capacity check covers. -/
theorem readBytesResult : Obligations.ReadBytesResult := fun _ _ count _ =>
  State.enqueuesAs_of_exec rfl (State.readFits_iff count.toNat) fun hfit => Nat.not_lt.1 (mt .inl hfit)

/-- Settles O14: with `count = 1` both capacity conditions of READ_BYTES are `C ≥ 2`. -/
theorem readByteResult : Obligations.ReadByteResult := fun _ _ s =>
  State.enqueuesAs_of_exec rfl ((State.readFits_iff 1).trans (by omega)) id

/-- Settles O15: of what the shared enqueue can do, only the load answers `NoError`, so every other answer is a code
on an unchanged state. -/
theorem failedEnqueueChangesNothing : Obligations.FailedEnqueueChangesNothing := by
  intro i s t hi hexec hresp
  obtain ⟨fits, overflow, bytes, count, hform, -⟩ := enqueue_form hi s
  obtain rfl : s.enqueue fits overflow bytes count = t := Host.Outcome.next.inj (hform.symm.trans hexec)
  have hcode {c : ErrCode} (h : s.enqueue fits overflow bytes count = s.answering c 0 []) :
      ∃ code, code ≠ .noError ∧ s.enqueue fits overflow bytes count = s.answering code 0 [] :=
    ⟨c, fun hc => hresp (by rw [h, hc]; rfl), h⟩
  rcases s.enqueue_cases fits overflow bytes count with ⟨_, -, h⟩ | ⟨-, -, h⟩ | ⟨-, -, h⟩
  · exact hcode h
  · exact hcode h
  · exact absurd (by rw [h]; rfl) hresp

end Sys2Proof.Machine

/-! The control and observation operations (spec/41_control.md R130 to R137): FETCH_RESULT as a rule for each of its
ends, what a busy state is, and that a 4-bit code survives its zero-extension into `val`. -/

namespace Sys2Proof.Machine

section
variable {s : State} {n : BitVec 16}

/-! ### FETCH_RESULT, one rule for each of its ends (R130) -/

theorem exec_fetchResult_checked {c : ErrCode} (hc : s.accessCheck = some c) :
    exec (.fetchResult n) s = .next (s.answering c 0 []) := by
  simp [exec, execFetchResult, hc]

theorem exec_fetchResult_nothingReceived (hc : s.accessCheck = none) (hrx : s.rxCount = 0) :
    exec (.fetchResult n) s = .next (s.answering .nothingReceived 0 []) := by
  simp [exec, execFetchResult, hc, hrx]

theorem exec_fetchResult_rxOverflow (hc : s.accessCheck = none) (hrx : s.rxCount ≠ 0) (hn : n.toNat < s.rxCount) :
    exec (.fetchResult n) s = .next (s.answering .rxOverflow 0 []) := by
  simp [exec, execFetchResult, hc, hrx, countOf, hn]

theorem exec_fetchResult_fetched {data : List Byte} (hc : s.accessCheck = none) (hrx : s.rxCount ≠ 0)
    (hn : s.rxCount ≤ n.toNat) (hdata : s.memReadRange 0 s.rxCount = some data) :
    exec (.fetchResult n) s = .next (s.answering .noError 0 data) := by
  simp [exec, execFetchResult, hc, hrx, countOf, Nat.not_lt.2 hn, hdata]

/-! ### The values IS_BUSY, GET_ERROR and GET_STATE answer -/

theorem DriverState.busy_eq_false_iff {d : DriverState} : d.busy = false ↔ d = .idle ∨ d = .error := by
  cases d <;> decide

theorem exec_isBusy {b : Bool} (hb : s.state.busy = b) :
    exec .isBusy s = .next (s.answering .noError (BitVec.zeroExtend 8 (BitVec.ofBool b)) []) := by
  subst hb
  rfl

/-- In `val` a code stands in the low nibble and 0 in the high one (R136, R137). -/
theorem zeroExtend_code_nibbles (c : BitVec 4) :
    (BitVec.zeroExtend 8 c).extractLsb' 0 4 = c ∧ (BitVec.zeroExtend 8 c).extractLsb' 4 4 = 0#4 := by
  revert c
  decide

end

/-- Settles O20: the three checks shared with the enqueues, the two tests of `rxCount`, and a read of the range
`0` to `rxCount - 1`, which lies in the buffer. -/
theorem fetchResultAnswers : Obligations.FetchResultAnswers := by
  intro n s
  refine ⟨fun herr => ?_, fun herr hst => ?_, fun herr hdis hidle => ?_, fun herr hst => ?_⟩
  · exact exec_fetchResult_checked (State.accessCheck_of_err herr)
  · exact exec_fetchResult_checked (State.accessCheck_of_disabled herr hst)
  · exact exec_fetchResult_checked (State.accessCheck_of_busy herr hdis hidle)
  · have hc : s.accessCheck = none := State.accessCheck_eq_none.2 ⟨herr, hst⟩
    refine ⟨exec_fetchResult_nothingReceived hc, exec_fetchResult_rxOverflow hc, fun hrx hn hC => ?_⟩
    obtain ⟨data, hdata⟩ : ∃ data, s.memReadRange 0 s.rxCount = some data :=
      Option.isSome_iff_exists.1 ((s.memReadRange_isSome 0 s.rxCount).2 (.inr (by omega)))
    obtain ⟨hlen, hbytes⟩ := State.memReadRange_spec hdata
    exact ⟨data, exec_fetchResult_fetched hc hrx hn hdata, hlen, fun k hk => by simpa using hbytes k hk⟩

/-- Settles O23: RESET writes the fields R132 lists and no other, so both sides are the same record. -/
theorem resetResult : Obligations.ResetResult := fun _ => rfl

/-- Settles O24: `Idle` and `Error` are the two states that are not busy. -/
theorem isBusyAnswers : Obligations.IsBusyAnswers := by
  refine fun s => ⟨fun hrest => ?_, fun hidle herr => ?_⟩
  · exact exec_isBusy (DriverState.busy_eq_false_iff.2 hrest)
  · have hbusy : s.state.busy ≠ false := fun h => (DriverState.busy_eq_false_iff.1 h).elim hidle herr
    exact exec_isBusy (Bool.eq_true_of_not_eq_false hbusy)

/-- Settles O25: ENABLE writes the fields R134 lists and the control port, so both sides are the same record. -/
theorem enableResult : Obligations.EnableResult := fun _ => rfl

/-- Settles O26: DISABLE writes the fields R135 lists and the control port, so both sides are the same record. -/
theorem disableResult : Obligations.DisableResult := fun _ => rfl

/-- Settles O27: the value is the latched code's number, zero-extended. -/
theorem getErrorAnswers : Obligations.GetErrorAnswers := fun s =>
  ⟨_, rfl, zeroExtend_code_nibbles (codeOfErr s.err)⟩

/-- Settles O28: the value is the Driver State's number, zero-extended. -/
theorem getStateAnswers : Obligations.GetStateAnswers := fun s =>
  ⟨_, rfl, zeroExtend_code_nibbles (codeOfState s.state)⟩

end Sys2Proof.Machine

/-! The event step (spec/42_event_sequencer.md R163 to R181): each row of the transition table as an equation, and what
every delivered event leaves outstanding. -/

namespace Sys2Proof.Machine

section
variable {s : State} {nack : Bool} {rxb b : Byte}

/-! ### A delivered event without collision is its row, on the answered state (R160, R163) -/

theorem exec_event_delivered (hd : s.deliverable) :
    exec (.event false nack rxb) s = .next (s.answered.rowStep nack rxb) := by
  simp [exec, execEvent_eq, State.delivers_iff.2 hd]

theorem exec_event_idle (hd : s.deliverable) (hst : s.state = .idle) :
    exec (.event false nack rxb) s = .next (s.afterError .internal) := by
  simp [exec_event_delivered hd, State.rowStep, hst, State.answered_enterError]

/-- The start and the repeated start end alike (R165, R166). -/
theorem exec_event_conditionDone (hd : s.deliverable) (hst : s.state = .sendingStart ∨ s.state = .sendingRestart) :
    exec (.event false nack rxb) s =
      .next (if s.length ≤ s.cursor then s.afterError .internal else s.answered.transmitNext) := by
  rw [exec_event_delivered hd]
  rcases hst with hst | hst
  · simp [State.rowStep, hst, State.startDone, State.answered_enterError]
  · simp [State.rowStep, hst, State.restartDone, State.answered_enterError]

theorem exec_event_transmittingData (hd : s.deliverable) (hst : s.state = .transmittingData) :
    exec (.event false nack rxb) s = .next (s.answered.byteSent nack) := by
  simp [exec_event_delivered hd, State.rowStep, hst]

theorem exec_event_receivingData (hd : s.deliverable) (hst : s.state = .receivingData) :
    exec (.event false nack rxb) s = .next (s.answered.byteReceived rxb) := by
  simp [exec_event_delivered hd, State.rowStep, hst]

theorem exec_event_sendingAck (hd : s.deliverable) (hst : s.state = .sendingAck) :
    exec (.event false nack rxb) s = .next s.answered.ackDone := by
  simp [exec_event_delivered hd, State.rowStep, hst]

theorem exec_event_sendingStop (hd : s.deliverable) (hst : s.state = .sendingStop) :
    exec (.event false nack rxb) s = .next s.answered.stopDone := by
  simp [exec_event_delivered hd, State.rowStep, hst]

/-! ### The ends of each row, one equation each -/

theorem State.answered_transmitNext (hb : s.memRead s.cursor = some b) :
    s.answered.transmitNext = { s.answered with
      cursor := s.cursor + 1, state := .transmittingData, cmd := .tx b, outstanding := some .tx } := by
  simp only [State.transmitNext, State.answered_fields, State.memRead_answered, hb]
  rfl

/-- A NACK gets its stop under both policies (R167). -/
theorem State.answered_byteSent_nack (hst : s.state = .transmittingData) :
    s.answered.byteSent true = { s.answered with
      err := .slaveNack, state := .sendingStop, cmd := .stop, outstanding := some .stop } := by
  calc s.answered.byteSent true = s.afterError .slaveNack := s.answered_enterError .slaveNack
    _ = _ := by simp [State.afterError, hst, State.answered]

theorem State.answered_byteSent_more (hlt : s.cursor < s.length) :
    s.answered.byteSent false = s.answered.transmitNext := by
  simp [State.byteSent, hlt]

theorem State.answered_byteSent_written (heq : s.cursor = s.length) (herc : s.erc = 0) :
    s.answered.byteSent false = { s.answered with
      state := .sendingStop, cmd := .stop, outstanding := some .stop } := by
  simp only [State.byteSent, State.answered_fields, heq, herc, lt_irrefl]
  rfl

theorem State.answered_byteSent_readDue (heq : s.cursor = s.length) (herc : 0 < s.erc) :
    s.answered.byteSent false = s.answered.turnOrReceive := by
  simp [State.byteSent, heq, herc.ne']

theorem State.answered_byteSent_pastLength (hgt : s.length < s.cursor) :
    s.answered.byteSent false = s.afterError .internal := by
  simp [State.byteSent, State.answered_enterError, hgt.not_gt, hgt.ne']

theorem State.answered_turnOrReceive_write (hb : s.memRead 0 = some b) (hr : readBit b = false) :
    s.answered.turnOrReceive = { s.answered with
      buf := s.buf.write 0 (withReadBit b), length := 1, cursor := 0, state := .sendingRestart,
      cmd := .restart, outstanding := some .restart } := by
  simp only [State.turnOrReceive, State.memRead_answered, hb, hr]
  rfl

theorem State.answered_turnOrReceive_read (hb : s.memRead 0 = some b) (hr : readBit b = true) :
    s.answered.turnOrReceive = { s.answered with
      cursor := 0, state := .receivingData, cmd := .rxen, outstanding := some .rx } := by
  simp only [State.turnOrReceive, State.memRead_answered, hb, hr]
  rfl

theorem State.answered_byteReceived_unexpected (h : s.erc ≤ s.cursor ∨ s.params.C ≤ s.cursor) :
    s.answered.byteReceived rxb = s.afterError .internal :=
  (if_pos h).trans (s.answered_enterError .internal)

/-- An answered `s` with a received byte stored at `cursor` and counted (R173), before the command that follows. -/
def State.received (s : State) (rxb : Byte) : State :=
  { s.answered with buf := s.buf.write s.cursor rxb, cursor := s.cursor + 1, rxCount := s.rxCount + 1 }

theorem State.answered_byteReceived_last (hC : s.cursor < s.params.C) (hlast : s.cursor + 1 = s.erc) :
    s.answered.byteReceived rxb = { s.received rxb with
      state := .sendingStop, cmd := .stop, outstanding := some .stop } := by
  have hexp : ¬ (s.erc ≤ s.cursor ∨ s.params.C ≤ s.cursor) := by omega
  simp only [State.byteReceived, State.answered_fields, ge_iff_le, if_neg hexp, if_pos hlast]
  rfl

theorem State.answered_byteReceived_more (hC : s.cursor < s.params.C) (herc : s.cursor < s.erc)
    (hmore : s.cursor + 1 ≠ s.erc) :
    s.answered.byteReceived rxb = { s.received rxb with
      state := .sendingAck, cmd := .ack, outstanding := some .ack } := by
  have hexp : ¬ (s.erc ≤ s.cursor ∨ s.params.C ≤ s.cursor) := by omega
  simp only [State.byteReceived, State.answered_fields, ge_iff_le, if_neg hexp, if_neg hmore]
  rfl

theorem State.answered_stopDone_error (h : s.params.stay = true ∧ s.err ≠ .noError) :
    s.answered.stopDone = { s.answered with state := .error } := by
  simp [State.stopDone, h]

theorem State.answered_stopDone_idle (h : ¬ (s.params.stay = true ∧ s.err ≠ .noError)) :
    s.answered.stopDone = { s.answered with state := .idle } := by
  simp only [State.stopDone, State.answered_fields, Bool.and_eq_true, decide_eq_true_eq, if_neg h]

/-! ### The event fields the rows do not read (R180, R181) -/

theorem State.rowStep_nack_ignored {nack' : Bool} (hst : s.state ≠ .transmittingData) :
    s.rowStep nack rxb = s.rowStep nack' rxb := by
  unfold State.rowStep
  cases hs : s.state
  case transmittingData => exact absurd hs hst
  all_goals rfl

theorem State.rowStep_rxb_ignored {rxb' : Byte} (hst : s.state ≠ .receivingData) :
    s.rowStep nack rxb = s.rowStep nack rxb' := by
  unfold State.rowStep
  cases hs : s.state
  case receivingData => exact absurd hs hst
  all_goals rfl

/-! ### Reads after one buffer write -/

theorem State.memRead_of_buf_write {t : State} {i : Nat} (hp : t.params = s.params) (hbuf : t.buf = s.buf.write i b)
    (hi : i < s.params.C) : t.memRead i = some b :=
  State.memRead_of_lookup (hp ▸ hi) (by simp [hbuf])

theorem State.memRead_of_buf_write_other {t : State} {i j : Nat} (hp : t.params = s.params)
    (hbuf : t.buf = s.buf.write i b) (hj : j ≠ i) : t.memRead j = s.memRead j :=
  State.memRead_congr hp (by rw [hbuf, Memory.lookup_write_other hj])

theorem State.lt_capacity_of_memRead {i : Nat} (hb : s.memRead i = some b) : i < s.params.C := by
  by_contra hC
  simp [State.memRead_eq_none.2 (Nat.not_lt.1 hC)] at hb

/-! ### What is outstanding after an event -/

theorem State.afterError_outstanding (s : State) (c : ErrCode) :
    (s.afterError c).outstanding = kindOf (s.afterError c).cmd := by
  rcases s.afterError_cases c with ⟨-, h⟩ | ⟨-, -, -, h⟩ | ⟨-, -, h⟩ <;> rw [h]
  · rfl
  · rfl
  · rfl

/-- Every row that goes on emits its command on an answered state. -/
theorem RowResult.outstanding_eq {t : State} (h : RowResult s nack rxb t) : t.outstanding = kindOf t.cmd := by
  cases h with
  | failed c => exact s.afterError_outstanding c
  | _ => rfl

theorem EventResult.outstanding_eq {coll : Bool} {t : State} (h : EventResult s coll nack rxb t)
    (hd : s.deliverable) : t.outstanding = kindOf t.cmd := by
  cases h with
  | undelivered hnd => exact absurd hd hnd
  | masked => rfl
  | latched => rfl
  | collided => exact s.afterError_outstanding _
  | row _ _ hrow => exact hrow.outstanding_eq

theorem EventResult.eq_resting {coll : Bool} {t : State} (h : EventResult s coll nack rxb t)
    (hnd : ¬ s.deliverable) : t = s.resting := by
  cases h with
  | undelivered => rfl
  | masked hd => exact absurd hd hnd
  | latched hd => exact absurd hd hnd
  | collided hd => exact absurd hd hnd
  | row hd => exact absurd hd hnd

end

/-- Settles O31: of what an operation can leave, the load and a delivered event have their command's kind outstanding,
and everything else emits no command. -/
theorem commandBecomesOutstanding : Obligations.CommandBecomesOutstanding := by
  intro i s t hexec
  cases exec_result hexec with
  | answered _ _ _ hev => exact ⟨fun hcmd => absurd rfl hcmd, fun h => absurd (hev.symm.trans h) nofun⟩
  | loaded => exact ⟨fun _ => rfl, fun _ _ hcmd => nomatch hcmd⟩
  | reset => exact ⟨fun hcmd => absurd rfl hcmd, nofun⟩
  | enable => exact ⟨fun hcmd => absurd rfl hcmd, nofun⟩
  | disable => exact ⟨fun hcmd => absurd rfl hcmd, nofun⟩
  | event _ _ _ _ hres =>
    by_cases hd : s.deliverable
    · have hout := hres.outstanding_eq hd
      exact ⟨fun _ => hout, fun _ _ hcmd => by rw [hout, hcmd]; rfl⟩
    · obtain rfl := hres.eq_resting hd
      exact ⟨fun hcmd => absurd rfl hcmd, fun _ hd' => absurd hd' hd⟩

/-- Settles O34: of the rows, only `TransmittingData` is given the NACK flag and only `ReceivingData` the byte, and a
collision comes before the rows. -/
theorem unusedEventFieldsIgnored : Obligations.UnusedEventFieldsIgnored := by
  intro coll nack nack' rxb rxb' s
  refine ⟨fun hst => ?_, fun hst => ?_, rfl⟩
  · have hrow : s.answered.rowStep nack rxb = s.answered.rowStep nack' rxb := State.rowStep_nack_ignored hst
    simp only [exec, execEvent_eq, hrow]
  · have hrow : s.answered.rowStep nack rxb = s.answered.rowStep nack rxb' := State.rowStep_rxb_ignored hst
    simp only [exec, execEvent_eq, hrow]

/-- Settles O40: byte 0 is in the buffer, so the turnaround writes it and no other byte. -/
theorem turnaroundRestarts : Obligations.TurnaroundRestarts := by
  intro rxb b s hd hst heq herc hb hr
  rw [exec_event_transmittingData hd hst, State.answered_byteSent_readDue heq herc,
    State.answered_turnOrReceive_write hb hr]
  have hC : 0 < s.params.C := State.lt_capacity_of_memRead hb
  exact ⟨_, rfl, rfl, State.memRead_of_buf_write (s := s) rfl rfl hC,
    fun _ hi => State.memRead_of_buf_write_other (s := s) rfl rfl hi⟩

/-- Settles O43: an expected byte is stored whichever command follows, and its reads are those after one write. -/
theorem receivedByteIsStored : Obligations.ReceivedByteIsStored := by
  intro nack rxb s hd hst
  rw [exec_event_receivingData hd hst]
  refine ⟨fun h => ?_, fun herc hC => ⟨_, rfl, ?_⟩⟩
  · rw [State.answered_byteReceived_unexpected h]
  have hself : (s.received rxb).memRead s.cursor = some rxb := State.memRead_of_buf_write (s := s) rfl rfl hC
  have hother : ∀ i, i ≠ s.cursor → (s.received rxb).memRead i = s.memRead i := fun _ hi =>
    State.memRead_of_buf_write_other (s := s) rfl rfl hi
  by_cases hlast : s.cursor + 1 = s.erc
  · rw [State.answered_byteReceived_last hC hlast]
    exact ⟨fun _ => rfl, fun hmore => absurd hlast hmore, hself, hother⟩
  · rw [State.answered_byteReceived_more hC herc hlast]
    exact ⟨fun h => absurd h hlast, fun _ => rfl, hself, hother⟩

/-- Settles O35: the row of `Idle` is error entry. -/
theorem eventInIdle : Obligations.EventInIdle := fun _ _ _ hd hst => exec_event_idle hd hst

/-- Settles O36: the start and the repeated start share their row, an error entry or the transmit of a byte. -/
theorem conditionDoneSendsByte : Obligations.ConditionDoneSendsByte := by
  intro nack rxb s hd hst
  rw [exec_event_conditionDone hd hst]
  refine ⟨fun hle => ?_, fun b hlt hb => ?_⟩
  · rw [if_pos hle]
  · rw [if_neg hlt.not_ge, State.answered_transmitNext hb]
    rfl

/-- Settles O37: a NACK comes before every look at the counters, and its error entry does not depend on `STAY`. -/
theorem nackIssuesStop : Obligations.NackIssuesStop := by
  intro rxb s hd hst
  rw [exec_event_transmittingData hd hst, State.answered_byteSent_nack hst]
  rfl

/-- Settles O38: the transmit writes `TransmittingData` over itself. -/
theorem acknowledgedByteSendsNext : Obligations.AcknowledgedByteSendsNext := by
  intro rxb b s hd hst hlt hb
  rw [exec_event_transmittingData hd hst, State.answered_byteSent_more hlt, State.answered_transmitNext hb, ← hst]
  rfl

/-- Settles O39: the row of a complete write changes the state and emits STOP. -/
theorem writeCompleteStops : Obligations.WriteCompleteStops := by
  intro rxb s hd hst heq herc
  rw [exec_event_transmittingData hd hst, State.answered_byteSent_written heq herc]
  rfl

/-- Settles O41: with the read bit set the read phase begins with the reception. -/
theorem readAddressedReceives : Obligations.ReadAddressedReceives := by
  intro rxb b s hd hst heq herc hb hr
  rw [exec_event_transmittingData hd hst, State.answered_byteSent_readDue heq herc,
    State.answered_turnOrReceive_read hb hr]
  rfl

/-- Settles O42: the last row of `TransmittingData` is error entry. -/
theorem cursorPastLengthIsInternal : Obligations.CursorPastLengthIsInternal := by
  intro rxb s hd hst hgt
  rw [exec_event_transmittingData hd hst, State.answered_byteSent_pastLength hgt]

/-- Settles O44: the row of `SendingAck` reads neither the NACK flag nor the byte. -/
theorem acknowledgeDoneReceives : Obligations.AcknowledgeDoneReceives := fun _ _ _ hd hst =>
  exec_event_sendingAck hd hst

/-- Settles O45: `STAY` with an error latched decides between `Error` and `Idle`, and only the state is written. -/
theorem stopDoneEndsTransaction : Obligations.StopDoneEndsTransaction := by
  intro nack rxb s hd hst
  rw [exec_event_sendingStop hd hst]
  refine ⟨fun h => ?_, fun h => ?_⟩
  · rw [State.answered_stopDone_error h]
    rfl
  · rw [State.answered_stopDone_idle h]
    rfl

end Sys2Proof.Machine

/-! The state at power-on (spec/70_reset_and_hazards.md R230, spec/10_state.md R41). -/

namespace Sys2Proof.Machine

/-- R52, in any state: the buffer holds a byte exactly for the indices below `C`. -/
theorem State.memRead_isSome (s : State) (i : Nat) : (s.memRead i).isSome = decide (i < s.params.C) := by
  rw [Bool.eq_iff_iff, Option.isSome_iff_ne_none, Ne, State.memRead_eq_none, Nat.not_le, decide_eq_true_iff]

/-- Settles O10: the fields are the power-on column of R41, and which bytes exist does not depend on the state's
history. -/
theorem powerOnState : Obligations.PowerOnState :=
  ⟨⟨rfl, rfl, rfl, rfl, rfl, rfl, rfl, rfl, rfl⟩, State.reset.memRead_isSome⟩

end Sys2Proof.Machine

/-! The encoding and the decoder (spec/30_encoding.md R71 to R87): when a plain request is accepted, the round trip in
both directions, and the words on the output ports. -/

namespace Sys2Proof

/-- What a plain request asks for: its zero fields zero and no data vector. -/
theorem plainRequest_eq_ok {op : BitVec 4} {zeroFields : Bool} {data : List Byte} {i j : Instr} :
    plainRequest op zeroFields data i = .ok j ↔ zeroFields = true ∧ data = [] ∧ i = j := by
  unfold plainRequest
  cases zeroFields
  · simp
  · by_cases hd : data = [] <;> simp [hd]

/-! ### `n` as a pair of bytes (R74) -/

@[simp] theorem reqNHigh_requestWord_zeroHigh (op : BitVec 4) (a r d : Byte) :
    reqNHigh (requestWord op a r (0#8 ++ d)) = 0 := by
  rw [reqNHigh_eq, reqN_requestWord, BitVec.extractLsb'_append_eq_left]
  rfl

@[simp] theorem reqNLow_requestWord_zeroHigh (op : BitVec 4) (a r d : Byte) :
    reqNLow (requestWord op a r (0#8 ++ d)) = d := by
  rw [reqNLow_eq, reqN_requestWord, BitVec.extractLsb'_append_eq_right]

theorem reqN_eq_append (w : RequestWord) : reqN w = reqNHigh w ++ reqNLow w := by
  rw [reqNHigh_eq, reqNLow_eq, BitVec.extractLsb'_append_extractLsb'_eq_extractLsb' (by rfl)]
  simp

/-! ### The round trip in both directions -/

/-- Settles O1: the fields are read back from the word, the zero fields are zero, and a well-formed vector's length
fits `n`. -/
theorem decodeOfEncode : Obligations.DecodeOfEncode := by
  intro i hi
  cases i with
  | writeBytes a r data =>
    have hlen : data.length % 65536 = data.length := Nat.mod_eq_of_lt (of_decide_eq_true hi)
    simp [decode, encode, decodeRequest, hlen]
  | event coll nack rxb => simp [decode, encode]
  | _ => simp [decode, encode, decodeRequest, plainRequest_eq_ok]

/-- The fields an accepted word marks 0 are 0, so it is built from the fields its instruction keeps. -/
theorem encode_of_decodeRequest {w : RequestWord} {data : List Byte} {i : Instr}
    (h : decodeRequest w data = .ok i) : i.WellFormed ∧ encode i = .request w data := by
  have hw := requestWord_fields w
  unfold decodeRequest at h
  generalize reqOp w = op at h hw
  dsimp only at h
  split at h
  case h_1 hop =>
    obtain ⟨hz, rfl, rfl⟩ := plainRequest_eq_ok.1 h
    obtain rfl : op = 0x1 := BitVec.eq_of_toNat_eq hop
    have hn : reqN w = 0#8 ++ reqNLow w := by rw [reqN_eq_append, of_decide_eq_true hz]; rfl
    rw [encode, ← hn, hw]
    exact ⟨rfl, rfl⟩
  case h_2 hop =>
    obtain rfl : op = 0x2 := BitVec.eq_of_toNat_eq hop
    split at h
    case isFalse => simp at h
    case isTrue hlen =>
      obtain rfl := Except.ok.inj h
      rw [encode, hlen, BitVec.ofNat_toNat, BitVec.setWidth_eq, hw]
      exact ⟨decide_eq_true (hlen ▸ (reqN w).isLt), rfl⟩
  case h_3 hop =>
    obtain ⟨hz, rfl, rfl⟩ := plainRequest_eq_ok.1 h
    obtain rfl : op = 0x3 := BitVec.eq_of_toNat_eq hop
    rw [encode, ← of_decide_eq_true hz, hw]
    exact ⟨rfl, rfl⟩
  case h_4 hop =>
    obtain ⟨-, rfl, rfl⟩ := plainRequest_eq_ok.1 h
    obtain rfl : op = 0x4 := BitVec.eq_of_toNat_eq hop
    rw [encode, hw]
    exact ⟨rfl, rfl⟩
  case h_5 hop =>
    obtain ⟨hz, rfl, rfl⟩ := plainRequest_eq_ok.1 h
    obtain rfl : op = 0x5 := BitVec.eq_of_toNat_eq hop
    obtain ⟨ha, hr⟩ : reqA w = 0 ∧ reqR w = 0 := by simpa using hz
    rw [ha, hr] at hw
    rw [encode, hw]
    exact ⟨rfl, rfl⟩
  case h_12 => simp at h
  all_goals
    rename_i hop
    obtain ⟨hz, rfl, rfl⟩ := plainRequest_eq_ok.1 h
    obtain ⟨⟨ha, hr⟩, hn⟩ : (reqA w = 0 ∧ reqR w = 0) ∧ reqN w = 0 := by simpa using hz
    have hof : BitVec.ofNat 4 op.toNat = op := by simp
    rw [ha, hr, hn, ← hof, hop] at hw
    exact ⟨rfl, congrArg (PortInput.request · []) hw⟩

/-- Settles O2: an event word is made of its fields, and a request word that decodes has nothing beside those its
instruction keeps. -/
theorem encodeOfDecode : Obligations.EncodeOfDecode := by
  intro x i h
  cases x with
  | request w data => exact encode_of_decodeRequest h
  | event w =>
    obtain rfl := Except.ok.inj h
    exact ⟨rfl, congrArg PortInput.event (eventWord_fields w)⟩

/-! ### Words and numbers (R77, R79, R80 to R84) -/

/-- Settles O3: nine closed words. -/
theorem specWordsDecode : Obligations.SpecWordsDecode :=
  ⟨rfl, rfl, rfl, rfl, rfl, rfl, rfl, rfl, rfl⟩

/-- Settles O5: the event port has no word that is refused. -/
theorem everyEventWordIsLegal : Obligations.EveryEventWordIsLegal := fun w =>
  ⟨_, _, _, rfl, rfl, rfl, fun k hk => by simp [hk]⟩

end Sys2Proof

namespace Sys2Proof.Machine

theorem errOfCode_codeOfErr (e : ErrCode) : errOfCode (codeOfErr e) = some e := by
  cases e <;> rfl

theorem stateOfCode_codeOfState (d : DriverState) : stateOfCode (codeOfState d) = some d := by
  cases d <;> rfl

/-- Numbers past the end of the table stand for no code (R83). -/
theorem errOfCode_reserved {c : BitVec 4} (hc : 10#4 ≤ c) : errOfCode c = none :=
  List.getElem?_eq_none (BitVec.le_def.1 hc)

/-- Numbers past the end of the table stand for no state (R84). -/
theorem stateOfCode_reserved {c : BitVec 4} (hc : 9#4 ≤ c) : stateOfCode c = none :=
  List.getElem?_eq_none (BitVec.le_def.1 hc)

/-- Settles O6: two tables, each read back from its own numbers and ending where the reserved numbers begin. -/
theorem codeNumbers : Obligations.CodeNumbers :=
  ⟨⟨rfl, rfl, rfl, rfl, rfl, rfl, rfl, rfl, rfl, rfl, fun _ => errOfCode_reserved⟩,
    ⟨rfl, rfl, rfl, rfl, rfl, rfl, rfl, rfl, rfl, fun _ => stateOfCode_reserved⟩,
    errOfCode_codeOfErr, stateOfCode_codeOfState⟩

/-- Settles O7: both words are a concatenation, whose parts are the fields. -/
theorem outputWords : Obligations.OutputWords :=
  ⟨⟨rfl, rfl, rfl, rfl, rfl, rfl⟩,
    fun _ => ⟨BitVec.extractLsb'_append_eq_left, BitVec.extractLsb'_append_eq_right⟩,
    fun _ => ⟨BitVec.extractLsb'_append_eq_left, BitVec.extractLsb'_append_eq_right⟩⟩

end Sys2Proof.Machine

/-! The invariant of the block (spec/10_state.md R20, R22, R36 to R40): each part of it as a rule about one kind of
update, then that a load, the control operations, error entry and every row keep it. -/

namespace Sys2Proof.Machine

section
variable {s : State}

/-! ### Updates that leave the record alone, and updates to a phase outside the transaction -/

/-- The invariant does not speak of the ports or of what is outstanding. -/
theorem State.Inv.withPorts (h : s.Inv) (o : Option OpKind) (xs : List PortInput) (c : Command) (r : Option Response)
    (b : BcControl) : ({ s with outstanding := o, inputs := xs, cmd := c, resp := r, bc := b } : State).Inv :=
  ⟨h.buf, h.counters, h.err, h.mask, h.transmit, h.receive, h.captured, h.marks⟩

theorem State.Inv.answered (h : s.Inv) : s.answered.Inv := h.withPorts ..

theorem State.Inv.answering (h : s.Inv) (c : ErrCode) (v : Byte) (d : List Byte) : (s.answering c v d).Inv :=
  h.withPorts ..

/-- The Driver States the two phases of a transaction do not speak of. -/
def DriverState.outsidePhases (d : DriverState) : Prop := d = .idle ∨ d = .sendingStop ∨ d = .error ∨ d = .disabled

/-- Outside the phases R38, R39 and R40 ask nothing. -/
theorem State.phasesOk_of_outside (h : s.state.outsidePhases) : s.transmitOk ∧ s.receiveOk := by
  rcases h with h | h | h | h <;> simp [State.transmitOk, State.receiveOk, h]

/-- The codes of R22 that the record can hold. -/
def ErrCode.latchable (e : ErrCode) : Prop := e = .noError ∨ e = .internal ∨ e = .slaveNack ∨ e = .collisionDetected

/-- A move out of the transaction, to `Idle`, to the stop condition, or under `STAY` with a code to `Error`. -/
theorem State.Inv.moved (h : s.Inv) {d : DriverState} {e : ErrCode} (he : e.latchable)
    (hd : d = .idle ∨ d = .sendingStop ∨ (d = .error ∧ e ≠ .noError ∧ s.params.stay = true)) :
    ({ s with state := d, err := e } : State).Inv := by
  have hout : d.outsidePhases := by
    rcases hd with rfl | rfl | ⟨rfl, -⟩ <;> simp [DriverState.outsidePhases]
  obtain ⟨htx, hrx⟩ := State.phasesOk_of_outside (s := { s with state := d, err := e }) hout
  refine ⟨h.buf, h.counters, ⟨he, ?_, ?_⟩, ?_, htx, hrx, h.captured, h.marks⟩
  · rcases hd with rfl | rfl | ⟨rfl, hne, -⟩
    · exact nofun
    · exact nofun
    · exact fun _ => hne
  · rcases hd with rfl | rfl | ⟨rfl, -, hstay⟩
    · exact fun _ => nofun
    · exact fun _ => nofun
    · exact fun hno => absurd (hno.symm.trans hstay) nofun
  · rcases hd with rfl | rfl | ⟨rfl, -⟩ <;> exact nofun

theorem State.Inv.cleared (h : s.Inv) (hs : s.state.outsidePhases) : s.clearCounters.Inv := by
  obtain ⟨htx, hrx⟩ := State.phasesOk_of_outside (s := s.clearCounters) hs
  exact ⟨h.buf, ⟨Nat.zero_le _, Nat.zero_le _, Nat.zero_le _, Nat.zero_le _⟩, h.err, h.mask, htx, hrx, nofun, h.marks⟩

theorem State.Inv.disabled (h : s.Inv) : ({ s with state := .disabled, bcOn := false } : State).Inv := by
  obtain ⟨htx, hrx⟩ := State.phasesOk_of_outside (s := { s with state := .disabled, bcOn := false })
    (.inr (.inr (.inr rfl)))
  exact ⟨h.buf, h.counters, ⟨h.err.1, nofun, fun _ => nofun⟩, fun _ => rfl, htx, hrx, h.captured, h.marks⟩

/-- Unmasking is safe outside `Disabled` (R37). -/
theorem State.Inv.unmasked (h : s.Inv) (hs : s.state ≠ .disabled) : ({ s with bcOn := true } : State).Inv :=
  ⟨h.buf, h.counters, h.err, fun hd => absurd hd hs, h.transmit, h.receive, h.captured, h.marks⟩

/-! ### A load (R102 to R107) -/

@[simp] theorem State.loaded_params (s : State) (bytes : List Byte) (count : Nat) :
    (s.loaded bytes count).params = s.params := rfl
@[simp] theorem State.loaded_buf (s : State) (bytes : List Byte) (count : Nat) :
    (s.loaded bytes count).buf = s.buf.writeFrom 0 bytes := rfl

/-- The address byte of an enqueue asks for a write (R106). -/
theorem readBit_addrByte (a : Byte) : readBit (addrByte a) = false := by
  simp [readBit, addrByte]

theorem State.written_loaded (s : State) (bytes : List Byte) (count : Nat) :
    (s.loaded bytes count).written bytes.length := by
  intro i hi
  have hat : (s.loaded bytes count).buf.lookup i = some bytes[i] := by
    simpa using Memory.lookup_writeFrom_at 0 i bytes hi s.buf
  exact Option.isSome_iff_exists.2 ⟨_, hat⟩

theorem State.Inv.loaded (h : s.Inv) {bytes : List Byte} {count : Nat} (he : s.err = .noError)
    (hb : 2 ≤ bytes.length) (hC : bytes.length ≤ s.params.C) (hc : count + 1 ≤ s.params.C)
    (ha : ∃ a rest, bytes = addrByte a :: rest) : (s.loaded bytes count).Inv := by
  have hbit : (s.loaded bytes count).addressReadBit = some false := by
    obtain ⟨a, rest, rfl⟩ := ha
    have hat : (s.loaded (addrByte a :: rest) count).buf.lookup 0 = some (addrByte a) :=
      Memory.lookup_writeFrom_at 0 0 (addrByte a :: rest) (Nat.zero_lt_succ _) s.buf
    rw [State.addressReadBit, hat, Option.map_some, readBit_addrByte]
  have hfirst : (s.loaded bytes count).transmitOk :=
    ⟨fun _ => ⟨Nat.zero_le _, by change 1 ≤ bytes.length; omega, rfl, hc, s.written_loaded bytes count⟩,
      fun _ => ⟨rfl, hb, hbit⟩, nofun, nofun⟩
  refine ⟨⟨Memory.wf_writeFrom _ _ h.buf.1, Memory.within_writeFrom 0 bytes (by simpa using hC) h.buf.2⟩,
    ⟨hC, Nat.zero_le _, Nat.le_of_succ_le hc, Nat.zero_le _⟩, ⟨.inl he, nofun, fun _ => nofun⟩, nofun, hfirst,
    fun hrx => hrx.elim nofun nofun, nofun, ?_⟩
  change (if s.outstanding.isSome then addFault .busOverrun s.modelFault else s.modelFault).Nodup
  split
  · exact addFault_nodup _ h.marks
  · exact h.marks

/-! ### Error entry and the rows (R162 to R177) -/

/-- Error entry of a delivered event changes the code, the Driver State and what is emitted, and nothing else. -/
theorem State.afterError_form (s : State) (c : ErrCode) :
    ∃ d cmd, ((d = .idle ∧ cmd = .none) ∨ (d = .sendingStop ∧ cmd = .stop) ∨
        (d = .error ∧ s.params.stay = true ∧ cmd = .none)) ∧
      s.afterError c = { s.answered with err := c, state := d, cmd := cmd, outstanding := kindOf cmd } := by
  rcases s.afterError_cases c with ⟨-, h⟩ | ⟨-, hstay, -, h⟩ | ⟨-, -, h⟩
  · cases hstay : s.params.stay with
    | true => exact ⟨.error, .none, .inr (.inr ⟨rfl, rfl, rfl⟩), by rw [h, hstay]; rfl⟩
    | false => exact ⟨.idle, .none, .inl ⟨rfl, rfl⟩, by rw [h, hstay]; rfl⟩
  · exact ⟨.error, .none, .inr (.inr ⟨rfl, hstay, rfl⟩), h⟩
  · exact ⟨.sendingStop, .stop, .inr (.inl ⟨rfl, rfl⟩), h⟩

theorem State.Inv.afterError (h : s.Inv) {c : ErrCode} (hc : c.latchable) (hne : c ≠ .noError) :
    (s.afterError c).Inv := by
  obtain ⟨d, cmd, hd, heq⟩ := s.afterError_form c
  have hmove : d = .idle ∨ d = .sendingStop ∨ (d = .error ∧ c ≠ .noError ∧ s.params.stay = true) := by
    rcases hd with ⟨hd, -⟩ | ⟨hd, -⟩ | ⟨hd, hstay, -⟩
    · exact .inl hd
    · exact .inr (.inl hd)
    · exact .inr (.inr ⟨hd, hne, hstay⟩)
  rw [heq]
  exact (h.moved hc hmove).withPorts ..

/-- After a write its own byte is written, and every byte that was. -/
theorem Memory.isSome_lookup_write {i : Nat} {v : Byte} {m : Memory} {j : Nat}
    (h : j ≠ i → (m.lookup j).isSome = true) : ((m.write i v).lookup j).isSome = true := by
  rw [Memory.lookup_write]
  split
  · rfl
  · exact h ‹_›

/-- Byte `cursor` is received: the parts of the invariant that R173 touches, whichever command follows. -/
theorem State.Inv.received (h : s.Inv) (hst : s.state = .receivingData) (hC : s.cursor < s.params.C) (rxb : Byte)
    {d : DriverState} (hd : d = .sendingStop ∨ (d = .sendingAck ∧ s.cursor + 1 < s.erc)) :
    ({ s.received rxb with state := d } : State).Inv := by
  obtain ⟨herc, hercC, hcount, hlt⟩ := h.receive (.inl hst)
  obtain ⟨hlen, -, hercR, -⟩ := h.counters
  have herr : d ≠ .error := by rcases hd with rfl | ⟨rfl, -⟩ <;> nofun
  have hdis : d ≠ .disabled := by rcases hd with rfl | ⟨rfl, -⟩ <;> nofun
  have hrxC : s.rxCount + 1 ≤ s.params.C := by omega
  refine ⟨⟨Memory.wf_write _ _ h.buf.1, Memory.within_write hC _ h.buf.2⟩, ⟨hlen, hC, hercR, hrxC⟩,
    ⟨h.err.1, fun he => absurd he herr, fun _ => herr⟩, fun he => absurd he hdis, ?_, ?_, fun i hi => ?_, h.marks⟩
  · rcases hd with rfl | ⟨rfl, -⟩ <;> simp [State.transmitOk]
  · rcases hd with rfl | ⟨rfl, hmore⟩
    · exact fun hrx => hrx.elim nofun nofun
    · exact fun _ => ⟨herc, hercC, congrArg (· + 1) hcount, hmore⟩
  · change i < s.rxCount + 1 at hi
    exact Memory.isSome_lookup_write fun hne => h.captured i (by omega)

theorem readBit_withReadBit (b : Byte) : readBit (withReadBit b) = true := by
  simp [readBit, withReadBit]

/-- The next byte goes out (R165, R166, R168): the cursor moves up to `length`, and the pass stays the one the address
byte names. -/
theorem State.Inv.sent (h : s.Inv)
    (hst : s.state = .sendingStart ∨ s.state = .sendingRestart ∨ s.state = .transmittingData)
    (hl : s.cursor < s.length) : ({ s with cursor := s.cursor + 1, state := .transmittingData } : State).Inv := by
  obtain ⟨hphase, hstart, hrestart, hdata⟩ := h.transmit
  obtain ⟨-, hlen, hrx, herc, hw⟩ := hphase hst
  obtain ⟨hlenC, -, hercC, hrxC⟩ := h.counters
  have hpass : (s.length = 1 → s.addressReadBit = some true) ∧ (2 ≤ s.length → s.addressReadBit = some false) := by
    rcases hst with hst | hst | hst
    · obtain ⟨-, htwo, hbit⟩ := hstart hst
      exact ⟨by omega, fun _ => hbit⟩
    · obtain ⟨hone, -, hbit, -⟩ := hrestart hst
      exact ⟨fun _ => hbit, by omega⟩
    · exact hdata hst
  exact ⟨h.buf, ⟨hlenC, hl.trans_le hlenC, hercC, hrxC⟩, ⟨h.err.1, nofun, fun _ => nofun⟩, nofun,
    ⟨fun _ => ⟨hl, hlen, hrx, herc, hw⟩, nofun, nofun, fun _ => hpass⟩, fun hr => hr.elim nofun nofun, h.captured,
    h.marks⟩

/-- The turnaround (R170) leaves one byte to send, the address with its read bit. -/
theorem State.Inv.turned (h : s.Inv) (hst : s.state = .transmittingData) (he : s.erc ≠ 0) (hC : 0 < s.params.C)
    (b : Byte) : ({ s with
      buf := s.buf.write 0 (withReadBit b), length := 1, cursor := 0, state := .sendingRestart } : State).Inv := by
  obtain ⟨-, -, hrx, herc, -⟩ := h.transmit.1 (.inr (.inr hst))
  obtain ⟨-, -, hercC, hrxC⟩ := h.counters
  have hw : ∀ i < 1, ((s.buf.write 0 (withReadBit b)).lookup i).isSome = true := fun i hi =>
    Memory.isSome_lookup_write fun hne => absurd (Nat.lt_one_iff.1 hi) hne
  have hbit : ((s.buf.write 0 (withReadBit b)).lookup 0).map readBit = some true := by
    rw [Memory.lookup_write_self, Option.map_some, readBit_withReadBit]
  exact ⟨⟨Memory.wf_write _ _ h.buf.1, Memory.within_write hC _ h.buf.2⟩, ⟨hC, Nat.zero_le _, hercC, hrxC⟩,
    ⟨h.err.1, nofun, fun _ => nofun⟩, nofun,
    ⟨fun _ => ⟨Nat.zero_le _, le_rfl, hrx, herc, hw⟩, nofun, fun _ => ⟨rfl, rfl, hbit, Nat.pos_of_ne_zero he⟩, nofun⟩,
    fun hr => hr.elim nofun nofun, fun i hi => absurd (hrx ▸ hi) (Nat.not_lt_zero i), h.marks⟩

/-- A receive phase that expects a byte (R39): before its first one (R171) or after an acknowledge (R174). -/
theorem State.Inv.receiving (h : s.Inv) {c : Nat} (herc : s.erc + 1 ≤ s.params.C) (hc : c = s.rxCount)
    (hlt : c < s.erc) : ({ s with cursor := c, state := .receivingData } : State).Inv := by
  obtain ⟨hlenC, -, hercC, hrxC⟩ := h.counters
  exact ⟨h.buf, ⟨hlenC, hc ▸ hrxC, hercC, hrxC⟩, ⟨h.err.1, nofun, fun _ => nofun⟩, nofun,
    ⟨by simp, nofun, nofun, nofun⟩, fun _ => ⟨Nat.lt_of_le_of_lt (Nat.zero_le c) hlt, herc, hc, hlt⟩, h.captured,
    h.marks⟩

theorem RowResult.inv {nack : Bool} {rxb : Byte} {t : State} (h : s.Inv) (hrow : RowResult s nack rxb t) : t.Inv := by
  cases hrow with
  | failed c hc =>
    rcases hc with rfl | rfl
    · exact h.afterError (.inr (.inl rfl)) nofun
    · exact h.afterError (.inr (.inr (.inl rfl))) nofun
  | sent b hst hl => exact (h.sent hst hl).withPorts ..
  | written => exact (h.moved h.err.1 (.inr (.inl rfl))).withPorts ..
  | turned b hst hl he hb => exact (h.turned hst he (State.lt_capacity_of_memRead hb) b).withPorts ..
  | addressed b hst hl he =>
    obtain ⟨-, -, hrx, herc, -⟩ := h.transmit.1 (.inr (.inr hst))
    exact (h.receiving herc hrx.symm (Nat.pos_of_ne_zero he)).withPorts ..
  | last hst hC => exact (h.received hst hC rxb (.inl rfl)).withPorts ..
  | stored hst hC he => exact (h.received hst hC rxb (.inr ⟨rfl, he⟩)).withPorts ..
  | acked hst =>
    obtain ⟨-, herc, hcount, hlt⟩ := h.receive (.inr hst)
    exact (h.receiving herc hcount hlt).withPorts ..
  | stopped =>
    have hend : ({ s with
        state := if s.params.stay && decide (s.err ≠ .noError) then .error else .idle } : State).Inv := by
      refine h.moved h.err.1 ?_
      split
      · next hstay => exact .inr (.inr ⟨rfl, by simpa [and_comm] using hstay⟩)
      · exact .inl rfl
    exact hend.withPorts ..
  | ignored => exact h.answered

theorem EventResult.inv {coll nack : Bool} {rxb : Byte} {t : State} (h : s.Inv)
    (hres : EventResult s coll nack rxb t) : t.Inv := by
  have hcoll : ErrCode.collisionDetected.latchable := .inr (.inr (.inr rfl))
  cases hres with
  | undelivered => exact h.withPorts ..
  | masked => exact h.answered
  | latched _ _ hst =>
    have hstay : s.params.stay = true := Bool.eq_true_of_not_eq_false fun hno => h.err.2.2 hno hst
    have hin : ({ s with state := .error, err := .collisionDetected } : State).Inv :=
      h.moved hcoll (.inr (.inr ⟨rfl, nofun, hstay⟩))
    rw [← hst] at hin
    exact hin.withPorts ..
  | collided => exact h.afterError hcoll nofun
  | row _ _ hrow => exact hrow.inv h

end

/-! ### The whole machine -/

theorem ExecResult.inv {s t : State} {i : Instr} (h : s.Inv) (hres : ExecResult s i t) : t.Inv := by
  cases hres with
  | answered c v d => exact h.answering c v d
  | loaded bytes count _ _ he hb hC hc ha => exact h.loaded he hb hC hc ha
  | reset => exact ((h.moved (.inl rfl) (.inl rfl)).cleared (.inl rfl)).withPorts ..
  | enable => exact (((h.moved h.err.1 (.inl rfl)).cleared (.inl rfl)).unmasked nofun).withPorts ..
  | disable => exact h.disabled.withPorts ..
  | event _ _ _ _ hev => exact hev.inv h

/-- Settles O49: taking an item off the port leaves the record alone, and everything an operation can leave meets the
invariant. -/
theorem stepKeepsInvariant : Obligations.StepKeepsInvariant := by
  intro s t h hstep
  rcases step_cases hstep with ⟨-, rfl⟩ | ⟨x, rest, i, -, -, hexec⟩
  · exact h.withPorts ..
  · have htake : (s.take rest).Inv := h.withPorts ..
    exact (exec_result hexec).inv htake

/-- Settles O48: every counter is 0, the buffer lists nothing, and `Disabled` is masked. -/
theorem invariantAtPowerOn : Obligations.InvariantAtPowerOn := by
  obtain ⟨htx, hrx⟩ := State.phasesOk_of_outside (s := State.reset) (.inr (.inr (.inr rfl)))
  exact ⟨⟨State.reset_buf_wf, nofun⟩, ⟨Nat.zero_le _, Nat.zero_le _, Nat.zero_le _, Nat.zero_le _⟩,
    ⟨.inl rfl, nofun, fun _ => nofun⟩, fun _ => rfl, htx, hrx, nofun, List.nodup_nil⟩

/-- FETCH_RESULT answers wherever its counter is inside the buffer. -/
theorem exec_fetchResult_completes (n : BitVec 16) {s : State} (hrx : s.rxCount ≤ s.params.C) :
    ∃ t, exec (.fetchResult n) s = .next t := by
  rcases hc : s.accessCheck with _ | c
  · by_cases hzero : s.rxCount = 0
    · exact ⟨_, exec_fetchResult_nothingReceived hc hzero⟩
    · by_cases hn : n.toNat < s.rxCount
      · exact ⟨_, exec_fetchResult_rxOverflow hc hzero hn⟩
      · obtain ⟨data, hdata⟩ := Option.isSome_iff_exists.1
          ((s.memReadRange_isSome 0 s.rxCount).2 (.inr (by omega)))
        exact ⟨_, exec_fetchResult_fetched hc hzero (Nat.not_lt.1 hn) hdata⟩
  · exact ⟨_, exec_fetchResult_checked hc⟩

/-- Settles O50: only FETCH_RESULT can stop, and the invariant keeps its counter inside the buffer. -/
theorem everyOperationCompletes : Obligations.EveryOperationCompletes := by
  intro i s h
  cases i with
  | fetchResult n =>
    obtain ⟨-, -, -, hrx⟩ := h.counters
    exact exec_fetchResult_completes n hrx
  | _ => exact ⟨_, rfl⟩

end Sys2Proof.Machine

/-! Who writes which field, over all operations (spec/10_state.md R22, R28 to R31, R35, spec/70_reset_and_hazards.md
R233): the frame of error entry, of a row and of an event, and what follows for exec. -/

namespace Sys2Proof.Machine

section
variable {s t : State} {coll nack : Bool} {rxb : Byte} {i : Instr}

/-- The fields no event writes are the parameters, the mask, the fault set and the input ports. -/
def State.eventFrame (s t : State) : Prop :=
  t.params = s.params ∧ t.bcOn = s.bcOn ∧ t.modelFault = s.modelFault ∧ t.inputs = s.inputs

theorem State.afterError_frame (s : State) (c : ErrCode) : s.eventFrame (s.afterError c) := by
  obtain ⟨d, cmd, -, heq⟩ := s.afterError_form c
  rw [heq]
  exact ⟨rfl, rfl, rfl, rfl⟩

@[simp] theorem State.afterError_buf (s : State) (c : ErrCode) : (s.afterError c).buf = s.buf := by
  obtain ⟨d, cmd, -, heq⟩ := s.afterError_form c
  rw [heq]
  rfl

@[simp] theorem State.afterError_err (s : State) (c : ErrCode) : (s.afterError c).err = c := by
  obtain ⟨d, cmd, -, heq⟩ := s.afterError_form c
  rw [heq]

/-- Error entry at rest has emitted nothing, and one that stops the bus is not at rest. -/
theorem State.afterError_settled (s : State) (c : ErrCode) : (s.afterError c).settled := by
  obtain ⟨d, cmd, hd, heq⟩ := s.afterError_form c
  rw [heq]
  rcases hd with ⟨rfl, rfl⟩ | ⟨rfl, rfl⟩ | ⟨rfl, -, rfl⟩ <;> simp [State.settled, kindOf]

/-! ### Rows and events -/

theorem RowResult.frame (h : RowResult s nack rxb t) : s.eventFrame t := by
  cases h with
  | failed c => exact s.afterError_frame c
  | _ => exact ⟨rfl, rfl, rfl, rfl⟩

theorem EventResult.frame (h : EventResult s coll nack rxb t) : s.eventFrame t := by
  cases h with
  | collided => exact s.afterError_frame _
  | row _ _ hrow => exact hrow.frame
  | _ => exact ⟨rfl, rfl, rfl, rfl⟩

/-- Error entry is the only end of a row that writes the error record. -/
theorem RowResult.err_cases (h : RowResult s nack rxb t) :
    t.err = s.err ∨ t.err = .internal ∨ t.err = .slaveNack := by
  cases h with
  | failed c hc => exact .inr (by simpa using hc)
  | _ => exact .inl rfl

theorem EventResult.err_cases (h : EventResult s coll nack rxb t) :
    t.err = s.err ∨ t.err = .internal ∨ t.err = .slaveNack ∨ t.err = .collisionDetected := by
  cases h with
  | undelivered => exact .inl rfl
  | masked => exact .inl rfl
  | latched => exact .inr (.inr (.inr rfl))
  | collided => exact .inr (.inr (.inr (s.afterError_err _)))
  | row _ _ hrow =>
    rcases hrow.err_cases with h | h | h
    · exact .inl h
    · exact .inr (.inl h)
    · exact .inr (.inr (.inl h))

/-- A row writes the buffer in `TransmittingData` (R170) and `ReceivingData` (R173) only. -/
theorem RowResult.buf_eq (h : RowResult s nack rxb t) (htx : s.state ≠ .transmittingData)
    (hrx : s.state ≠ .receivingData) : t.buf = s.buf := by
  cases h with
  | failed c => exact s.afterError_buf c
  | turned _ hst => exact absurd hst htx
  | last hst => exact absurd hst hrx
  | stored hst => exact absurd hst hrx
  | _ => rfl

theorem EventResult.buf_eq (h : EventResult s coll nack rxb t) (htx : s.state ≠ .transmittingData)
    (hrx : s.state ≠ .receivingData) : t.buf = s.buf := by
  cases h with
  | collided => exact s.afterError_buf _
  | row _ _ hrow => exact hrow.buf_eq htx hrx
  | _ => rfl

/-- A row that emits a command leaves the core in the middle of a transaction. -/
theorem RowResult.settled (h : RowResult s nack rxb t) : t.settled := by
  cases h with
  | failed c => exact s.afterError_settled c
  | stopped => exact fun _ => rfl
  | ignored => exact fun _ => rfl
  | _ => simp [State.settled]

theorem EventResult.settled (h : EventResult s coll nack rxb t) (hs : s.settled) : t.settled := by
  cases h with
  | undelivered => exact hs
  | masked => exact fun _ => rfl
  | latched => exact fun _ => rfl
  | collided => exact s.afterError_settled _
  | row _ _ hrow => exact hrow.settled

/-! ### Operations -/

theorem ExecResult.params_inputs (h : ExecResult s i t) : t.params = s.params ∧ t.inputs = s.inputs := by
  cases h with
  | event _ _ _ _ hev =>
    obtain ⟨hparams, -, -, hinputs⟩ := hev.frame
    exact ⟨hparams, hinputs⟩
  | _ => exact ⟨rfl, rfl⟩

theorem exec_params (h : exec i s = .next t) : t.params = s.params := (exec_result h).params_inputs.1

/-- The fault set after a load: a mark only for an overrun (R179). -/
theorem State.mem_loaded_modelFault (s : State) (bytes : List Byte) (count : Nat) (k : FaultKind) :
    k ∈ (s.loaded bytes count).modelFault ↔ k ∈ s.modelFault ∨ (k = .busOverrun ∧ s.outstanding ≠ none) := by
  change k ∈ (if s.outstanding.isSome then addFault .busOverrun s.modelFault else s.modelFault) ↔ _
  rcases s.outstanding with _ | op
  · simp
  · simp [mem_addFault, or_comm]

end

/-- Settles O32: only a load and an event emit a command, and an event has answered the outstanding operation before
it emits. -/
theorem overrunMarkedByEnqueueOnly : Obligations.OverrunMarkedByEnqueueOnly := by
  intro i s t hexec k
  cases exec_result hexec with
  | answered c v d => simp
  | loaded bytes count hi =>
    have hcmd : (s.loaded bytes count).cmd ≠ .none := nofun
    rw [State.mem_loaded_modelFault]
    simp only [hi, hcmd, ne_eq, not_false_eq_true, true_and]
  | reset => simp
  | enable => simp
  | disable => simp
  | event _ _ _ _ hev =>
    obtain ⟨-, -, hmarks, -⟩ := hev.frame
    rw [hmarks]
    simp [isEnqueue]

/-- Settles O51: a load finds the record clear and leaves it, so the writers are the event and RESET. -/
theorem errorRecordWriters : Obligations.ErrorRecordWriters := by
  intro i s t hexec
  cases exec_result hexec with
  | answered _ _ _ hev hr => exact ⟨fun h => absurd (hev.symm.trans h) nofun, fun _ _ => rfl, fun h => absurd h hr⟩
  | loaded _ _ hi =>
    refine ⟨fun _ => .inl rfl, fun _ _ => rfl, ?_⟩
    rintro rfl
    exact absurd hi nofun
  | reset => exact ⟨nofun, fun _ hr => absurd rfl hr, fun _ => rfl⟩
  | enable => exact ⟨nofun, fun _ _ => rfl, nofun⟩
  | disable => exact ⟨nofun, fun _ _ => rfl, nofun⟩
  | event _ _ _ _ hev => exact ⟨fun _ => hev.err_cases, nofun, nofun⟩

/-- Settles O52: `bcOn` is in the frame of an answer, of a load and of an event. -/
theorem eventMaskWriters : Obligations.EventMaskWriters := by
  intro i s t hexec
  cases exec_result hexec with
  | answered _ _ _ _ _ he hd => simp [he, hd]
  | loaded _ _ hi =>
    rw [if_neg (by rintro rfl; exact absurd hi nofun), if_neg (by rintro rfl; exact absurd hi nofun)]
    rfl
  | reset => rfl
  | enable => rfl
  | disable => rfl
  | event _ _ _ _ hev =>
    obtain ⟨-, hmask, -⟩ := hev.frame
    exact hmask

/-- Settles O53: the marks are kept because an overrun is the only thing that changes the set. -/
theorem parametersFixedMarksKept : Obligations.ParametersFixedMarksKept := by
  intro i s t hexec
  obtain ⟨hparams, hinputs⟩ := (exec_result hexec).params_inputs
  exact ⟨hparams, hinputs, fun k hk => (overrunMarkedByEnqueueOnly i s t hexec k).2 (.inl hk)⟩

/-- Settles O54: the two owners are the load and the rows that write a byte. -/
theorem bufferOwnership : Obligations.BufferOwnership := by
  intro i s t hexec hload hrow
  suffices hbuf : t.buf = s.buf from fun a => State.memRead_congr (exec_params hexec) (by rw [hbuf])
  cases exec_result hexec with
  | loaded _ _ hi hs => exact absurd ⟨hi, hs⟩ hload
  | event _ _ _ _ hev =>
    refine hev.buf_eq (fun hst => hrow ?_) fun hst => hrow ?_
    · simp [isEvent, hst]
    · simp [isEvent, hst]
  | _ => rfl

/-- Settles O55: RESET at rest finds nothing outstanding, ENABLE and DISABLE drop it, and a load or a row that goes on
leaves rest. -/
theorem nothingOutstandingAtRest : Obligations.NothingOutstandingAtRest := by
  intro i s t _ hs hreset hexec
  cases exec_result hexec with
  | answered => exact hs
  | loaded => simp [State.settled, State.loaded]
  | reset =>
    have hrest : s.state = .idle ∨ s.state = .error :=
      DriverState.busy_eq_false_iff.1 (Bool.eq_false_iff.2 fun hb => hreset ⟨rfl, hb⟩)
    exact fun _ => hs (hrest.imp_right .inl)
  | enable => exact fun _ => rfl
  | disable => exact fun _ => rfl
  | event _ _ _ _ hev => exact hev.settled hs

end Sys2Proof.Machine

/-! What an operation reads of the parameters (spec/41_control.md R131, R139, spec/20_memory.md R62, R64): the capacity
and the two policies, the configuration value only to hand it over, and of the power-on bytes none. -/

namespace Sys2Proof.Machine

/-- `s` in a run with other parameters. -/
def State.withParams (s : State) (p : Params) : State := { s with params := p }

/-- The parameters the rules compare with are those of `s`, so that both take the same branches. -/
def State.sameRules (s : State) (p : Params) : Prop :=
  p.C = s.params.C ∧ p.stay = s.params.stay ∧ p.spurious = s.params.spurious

/-- Byte `j` is one an operation may read in `s`: a captured byte (FETCH_RESULT), or in the transmit phase byte 0 and
the bytes to send. -/
def State.mayRead (s : State) (j : Nat) : Prop :=
  j < s.rxCount ∨
    ((s.state = .sendingStart ∨ s.state = .sendingRestart ∨ s.state = .transmittingData) ∧ (j = 0 ∨ j < s.length))

section
variable {s t : State} {p : Params}

/-! ### The shared operations commute with a change of parameters -/

theorem State.emit_withParams (c : Command) : (s.withParams p).emit c = (s.emit c).withParams p := by
  cases c <;> rfl

theorem State.enterError_withParams (hstay : p.stay = s.params.stay) (c : ErrCode) :
    (s.withParams p).enterError c = (s.enterError c).withParams p := by
  have hstay' : (s.withParams p).params.stay = s.params.stay := hstay
  have hst : (s.withParams p).state = s.state := rfl
  simp only [State.enterError, hstay', hst]
  split
  · rfl
  split
  · rfl
  · rfl

theorem State.stopDone_withParams (hstay : p.stay = s.params.stay) :
    (s.withParams p).stopDone = s.stopDone.withParams p := by
  have hstay' : (s.withParams p).params.stay = s.params.stay := hstay
  simp only [State.stopDone, hstay']
  rfl

theorem State.transmitNext_withParams (hstay : p.stay = s.params.stay)
    (hread : (s.withParams p).memRead s.cursor = s.memRead s.cursor) :
    (s.withParams p).transmitNext = s.transmitNext.withParams p := by
  have hread' : (s.withParams p).memRead (s.withParams p).cursor = s.memRead s.cursor := hread
  simp only [State.transmitNext, hread']
  split
  · exact State.enterError_withParams hstay _
  · rfl

theorem State.turnOrReceive_withParams (hstay : p.stay = s.params.stay)
    (hread : (s.withParams p).memRead 0 = s.memRead 0) :
    (s.withParams p).turnOrReceive = s.turnOrReceive.withParams p := by
  simp only [State.turnOrReceive, hread]
  split
  · exact State.enterError_withParams hstay _
  split
  · rfl
  · rfl

theorem State.byteSent_withParams (hstay : p.stay = s.params.stay) (nack : Bool)
    (hread : ∀ j, j = 0 ∨ j < s.length → (s.withParams p).memRead j = s.memRead j) :
    (s.withParams p).byteSent nack = (s.byteSent nack).withParams p := by
  have hcur : (s.withParams p).cursor = s.cursor := rfl
  have hlen : (s.withParams p).length = s.length := rfl
  have herc : (s.withParams p).erc = s.erc := rfl
  simp only [State.byteSent, hcur, hlen, herc]
  split
  · exact State.enterError_withParams hstay _
  split
  · next hlt => exact State.transmitNext_withParams hstay (hread _ (.inr hlt))
  split
  · split
    · rfl
    · exact State.turnOrReceive_withParams hstay (hread 0 (.inl rfl))
  · exact State.enterError_withParams hstay _

/-- The start's row (R165); the repeated start's (R166) is the same term. -/
theorem State.startDone_withParams (hstay : p.stay = s.params.stay)
    (hread : ∀ j, j < s.length → (s.withParams p).memRead j = s.memRead j) :
    (s.withParams p).startDone = s.startDone.withParams p := by
  have hcur : (s.withParams p).cursor = s.cursor := rfl
  have hlen : (s.withParams p).length = s.length := rfl
  simp only [State.startDone, hcur, hlen]
  split
  · exact State.enterError_withParams hstay _
  · next hlt => exact State.transmitNext_withParams hstay (hread _ (Nat.not_le.1 hlt))

theorem State.byteReceived_withParams (hrules : s.sameRules p) (rxb : Byte) :
    (s.withParams p).byteReceived rxb = (s.byteReceived rxb).withParams p := by
  obtain ⟨hC, hstay, -⟩ := hrules
  have hC' : (s.withParams p).params.C = s.params.C := hC
  have hcur : (s.withParams p).cursor = s.cursor := rfl
  have herc : (s.withParams p).erc = s.erc := rfl
  simp only [State.byteReceived, hC', hcur, herc]
  split
  · exact State.enterError_withParams hstay _
  split
  · rfl
  · rfl

theorem State.rowStep_withParams (hrules : s.sameRules p) (nack : Bool) (rxb : Byte)
    (hread : ∀ j, s.mayRead j → (s.withParams p).memRead j = s.memRead j) :
    (s.withParams p).rowStep nack rxb = (s.rowStep nack rxb).withParams p := by
  have hstay := hrules.2.1
  have hst : (s.withParams p).state = s.state := rfl
  unfold State.rowStep
  rw [hst]
  cases hs : s.state
  case idle => exact State.enterError_withParams hstay _
  case sendingStart =>
    exact State.startDone_withParams hstay fun j hj => hread j (.inr ⟨.inl hs, .inr hj⟩)
  case sendingRestart =>
    exact State.startDone_withParams hstay fun j hj => hread j (.inr ⟨.inr (.inl hs), .inr hj⟩)
  case transmittingData =>
    exact State.byteSent_withParams hstay nack fun j hj => hread j (.inr ⟨.inr (.inr hs), hj⟩)
  case receivingData => exact State.byteReceived_withParams hrules rxb
  case sendingAck => rfl
  case sendingStop => exact State.stopDone_withParams hstay
  case error => rfl
  case disabled => rfl

theorem State.collisionStep_withParams (hstay : p.stay = s.params.stay) :
    (s.withParams p).collisionStep = s.collisionStep.withParams p := by
  have hst : (s.withParams p).state = s.state := rfl
  unfold State.collisionStep
  rw [hst]
  cases s.state
  case disabled => rfl
  case error => rfl
  all_goals exact State.enterError_withParams hstay _

theorem State.enqueue_withParams (fits : Bool) (o : ErrCode) (bytes : List Byte) (count : Nat) :
    (s.withParams p).enqueue fits o bytes count = (s.enqueue fits o bytes count).withParams p := by
  have hcheck : (s.withParams p).accessCheck = s.accessCheck := rfl
  rcases s.enqueue_cases fits o bytes count with ⟨c, hc, h⟩ | ⟨hc, rfl, h⟩ | ⟨hc, rfl, h⟩
  · rw [h, State.enqueue_checked (hcheck.trans hc)]
    rfl
  · rw [h, State.enqueue_overflow (hcheck.trans hc)]
    rfl
  · rw [h, State.enqueue_loaded (hcheck.trans hc)]
    rfl

/-! ### FETCH_RESULT reads the checks, the counter and the captured bytes -/

theorem State.memReadRange_congr_bytes {i n : Nat} (h : ∀ j < i + n, t.memRead j = s.memRead j) :
    t.memReadRange i n = s.memReadRange i n := by
  induction n generalizing i with
  | zero => rfl
  | succ n ih =>
    simp only [State.memReadRange]
    rw [h i (by omega), ih fun j hj => h j (by omega)]

/-- Two states with the same checks, counter and captured bytes get the same answer. -/
theorem exec_fetchResult_congr {n : BitVec 16} {s' : State} (hcheck : s'.accessCheck = s.accessCheck)
    (hrx : s'.rxCount = s.rxCount) (hdata : s'.memReadRange 0 s.rxCount = s.memReadRange 0 s.rxCount)
    (h : exec (.fetchResult n) s = .next t) :
    ∃ c d, t = s.answering c 0 d ∧ exec (.fetchResult n) s' = .next (s'.answering c 0 d) := by
  have hs : ∀ {c d}, exec (.fetchResult n) s = .next (s.answering c 0 d) → t = s.answering c 0 d := fun he =>
    Host.Outcome.next.inj (h.symm.trans he)
  rcases hc : s.accessCheck with _ | c
  · by_cases hzero : s.rxCount = 0
    · exact ⟨_, _, hs (exec_fetchResult_nothingReceived hc hzero),
        exec_fetchResult_nothingReceived (hcheck.trans hc) (hrx.trans hzero)⟩
    by_cases hn : n.toNat < s.rxCount
    · exact ⟨_, _, hs (exec_fetchResult_rxOverflow hc hzero hn),
        exec_fetchResult_rxOverflow (hcheck.trans hc) (hrx ▸ hzero) (hrx ▸ hn)⟩
    rcases hd : s.memReadRange 0 s.rxCount with _ | data
    · simp [exec, execFetchResult, hc, hzero, countOf, hn, hd] at h
    · exact ⟨_, _, hs (exec_fetchResult_fetched hc hzero (Nat.not_lt.1 hn) hd),
        exec_fetchResult_fetched (hcheck.trans hc) (hrx ▸ hzero) (hrx ▸ Nat.not_lt.1 hn) (by rw [hrx, hdata, hd])⟩
  · exact ⟨_, _, hs (exec_fetchResult_checked hc), exec_fetchResult_checked (hcheck.trans hc)⟩

/-! ### Every operation -/

theorem State.writeFits_withParams (hC : p.C = s.params.C) (n : Nat) :
    (s.withParams p).writeFits n = s.writeFits n := by
  simp [State.writeFits, State.withParams, hC]

theorem State.readFits_withParams (hC : p.C = s.params.C) (n : Nat) :
    (s.withParams p).readFits n = s.readFits n := by
  simp [State.readFits, State.withParams, hC]

theorem execEvent_withParams (hrules : s.sameRules p)
    (hread : ∀ j, s.mayRead j → (s.withParams p).memRead j = s.memRead j) (coll nack : Bool) (rxb : Byte)
    (h : execEvent coll nack rxb s = .next t) : execEvent coll nack rxb (s.withParams p) = .next (t.withParams p) := by
  have hdel : (s.withParams p).delivers = s.delivers := by
    simp [State.delivers, State.withParams, hrules.2.2]
  have hans : (s.withParams p).answered = s.answered.withParams p := rfl
  rw [execEvent_eq] at h ⊢
  obtain rfl := Host.Outcome.next.inj h
  rw [hdel, hans, State.collisionStep_withParams (s := s.answered) hrules.2.1,
    State.rowStep_withParams (s := s.answered) hrules nack rxb hread]
  split
  · split
    · rfl
    · rfl
  · rfl

/-- With other parameters that compare alike, and the same bytes where an operation may read, an operation does the
same, but for the configuration value ENABLE hands over. -/
theorem exec_withParams {i : Instr} (hrules : s.sameRules p)
    (hread : ∀ j, s.mayRead j → (s.withParams p).memRead j = s.memRead j) (h : exec i s = .next t) :
    exec i (s.withParams p) =
      .next { t.withParams p with bc := if i = .enable then .init p.cfg else t.bc } := by
  have hC := hrules.1
  cases i with
  | writeByte a r d =>
    obtain rfl := Host.Outcome.next.inj h
    simp only [exec, execWriteByte, State.writeFits_withParams hC, State.enqueue_withParams]
    rfl
  | writeBytes a r data =>
    obtain rfl := Host.Outcome.next.inj h
    simp only [exec, execWriteBytes, State.writeFits_withParams hC, State.enqueue_withParams]
    rfl
  | readByte a r =>
    obtain rfl := Host.Outcome.next.inj h
    simp only [exec, execReadByte, State.readFits_withParams hC, State.enqueue_withParams]
    rfl
  | readBytes a r count =>
    obtain rfl := Host.Outcome.next.inj h
    simp only [exec, execReadBytes, State.readFits_withParams hC, State.enqueue_withParams]
    rfl
  | fetchResult n =>
    have hdata : (s.withParams p).memReadRange 0 s.rxCount = s.memReadRange 0 s.rxCount :=
      State.memReadRange_congr_bytes fun j hj => hread j (.inl (by simpa using hj))
    obtain ⟨c, d, rfl, he⟩ := exec_fetchResult_congr (s := s) (s' := s.withParams p) rfl rfl hdata h
    exact he
  | event coll nack rxb =>
    have hev : execEvent coll nack rxb (s.withParams p) = .next (t.withParams p) :=
      execEvent_withParams hrules hread coll nack rxb h
    exact hev
  | _ =>
    obtain rfl := Host.Outcome.next.inj h
    rfl

end

/-- Settles O29: reads of the buffer and the rules do not look at the configuration value. -/
theorem configurationIsOpaque : Obligations.ConfigurationIsOpaque := by
  intro i s t c h
  have ht : t.withCfg c = t.withParams { s.params with cfg := c } := by
    rw [← exec_params h]
    rfl
  rw [ht]
  exact exec_withParams ⟨rfl, rfl, rfl⟩ (fun _ _ => rfl) h

/-- A written byte is read whatever the power-on bytes are. -/
theorem State.memRead_withInst {s : State} {j : Nat} (h : (s.buf.lookup j).isSome = true) (k : Nat) :
    (s.withInst k).memRead j = s.memRead j := by
  obtain ⟨b, hb⟩ := Option.isSome_iff_exists.1 h
  simp [State.memRead, State.withInst, hb]

/-- Under the invariant an operation may read written bytes only (R62, R64). -/
theorem State.Inv.written_of_mayRead {s : State} (h : s.Inv) {j : Nat} (hj : s.mayRead j) :
    (s.buf.lookup j).isSome = true := by
  rcases hj with hj | ⟨hst, hj⟩
  · exact h.captured j hj
  · obtain ⟨-, hlen, -, -, hw⟩ := h.transmit.1 hst
    exact hw j (by omega)

/-- Settles O57: under the invariant every byte an operation may read is written, and ENABLE hands over the same
configuration value. -/
theorem powerOnBytesNeverRead : Obligations.PowerOnBytesNeverRead := by
  intro i s t k hinv h
  have ht : t.withInst k = t.withParams { s.params with inst := k } := by
    rw [← exec_params h]
    rfl
  have hrun : exec i (s.withInst k) = .next { t.withParams { s.params with inst := k } with
      bc := if i = .enable then .init s.params.cfg else t.bc } :=
    exec_withParams ⟨rfl, rfl, rfl⟩ (fun j hj => State.memRead_withInst (hinv.written_of_mayRead hj) k) h
  have hbc : (if i = .enable then BcControl.init s.params.cfg else t.bc) = t.bc := by
    split
    · next hi =>
      subst hi
      obtain rfl := Host.Outcome.next.inj h
      rfl
    · rfl
  rw [hrun, hbc, ht]
  rfl

/-- Settles O22: an answer is on the ports, where FETCH_RESULT does not look. -/
theorem fetchResultIsIdempotent : Obligations.FetchResultIsIdempotent := by
  intro n s t h
  obtain ⟨c, d, rfl, -⟩ := exec_fetchResult_congr (s' := s) rfl rfl rfl h
  have hdata : (s.answering c 0 d).memReadRange 0 s.rxCount = s.memReadRange 0 s.rxCount :=
    State.memReadRange_congr (s := s) (t := s.answering c 0 d) rfl rfl 0 s.rxCount
  obtain ⟨c', d', hsame, hagain⟩ := exec_fetchResult_congr (s := s) (s' := s.answering c 0 d) rfl rfl hdata h
  rw [hagain, hsame]
  rfl

end Sys2Proof.Machine

/-! The remaining rules of single steps: the step itself and the waiting core, the capacity checks of R109 and the
answers of R110, R106's address byte, FETCH_RESULT past the buffer, undelivered events, collisions and the rows that
ignore an event, a transmit past the buffer, and several cores (R217). -/

namespace Sys2Proof.Machine

/-! ### The step (R10, R230) -/

theorem step_of_decode {s : State} {x : PortInput} {rest : List PortInput} {i : Instr} (hs : s.inputs = x :: rest)
    (hd : decode x = .ok i) : step s = exec i (s.take rest) := by
  simp [step, hs, hd]

theorem step_of_no_input {s : State} (hs : s.inputs = []) : step s = .next s.resting := by
  simp [step, hs, State.quiet_eq_resting]

/-- Settles O8: taking the item off the port is the only thing around exec. -/
theorem stepRunsTheDecodedInput : Obligations.StepRunsTheDecodedInput := fun _ _ _ _ hs hd => step_of_decode hs hd

/-- Settles O9: the waiting core sets its output ports to rest, where they are at power-on. -/
theorem stepWaitsWithoutInput : Obligations.StepWaitsWithoutInput :=
  ⟨fun _ hs => step_of_no_input hs, step_of_no_input rfl⟩

/-! ### Enqueue operations (R86, R106, R109, R110) -/

/-- Settles O16: every enqueue runs the checks of R101, in their order, before it looks at the capacity. -/
theorem enqueueCheckOrder : Obligations.EnqueueCheckOrder := by
  intro i s hi
  obtain ⟨fits, overflow, bytes, count, hform, -⟩ := enqueue_form hi s
  rw [hform]
  refine ⟨fun herr => ?_, fun herr hst => ?_, fun herr hdis hidle => ?_⟩
  · rw [State.enqueue_checked (State.accessCheck_of_err herr)]
  · rw [State.enqueue_checked (State.accessCheck_of_disabled herr hst)]
  · rw [State.enqueue_checked (State.accessCheck_of_busy herr hdis hidle)]

theorem addrByte_getLsbD_succ (a : Byte) {k : Nat} (hk : k < 7) : (addrByte a).getLsbD (k + 1) = a.getLsbD k := by
  interval_cases k <;> simp [addrByte]

/-- Settles O17: the shift discards `a[7]`, and the mask clears bit 0. -/
theorem addressByteBits : Obligations.AddressByteBits := by
  refine fun a => ⟨rfl, readBit_addrByte a, fun k hk => addrByte_getLsbD_succ a hk, ?_⟩
  apply BitVec.eq_of_getLsbD_eq
  intro k hk
  cases k with
  | zero => exact (readBit_addrByte _).trans (readBit_addrByte a).symm
  | succ k =>
    have hk' : k < 7 := Nat.lt_of_succ_lt_succ hk
    have htop : (0x80#8).getLsbD k = false := by interval_cases k <;> rfl
    rw [addrByte_getLsbD_succ _ hk', addrByte_getLsbD_succ _ hk', BitVec.getLsbD_xor, htop, Bool.xor_false]

/-- With the checks of R101 passed, `NoError` is the answer exactly where the bytes fit. -/
theorem State.enqueue_resp_iff {s : State} (h : s.accessCheck = none) (fits : Bool) {o : ErrCode} (ho : o ≠ .noError)
    (bytes : List Byte) (count : Nat) :
    (s.enqueue fits o bytes count).resp = some ⟨.noError, 0, []⟩ ↔ fits = true := by
  cases fits with
  | false => simp [State.enqueue_overflow h, ho]
  | true => simp [State.enqueue_loaded h, State.loaded]

/-- Settles O18: the capacity conditions `2 + len ≤ C`, and `2 ≤ C` with `1 + count ≤ C`, at the smallest `C`. -/
theorem smallCapacities : Obligations.SmallCapacities := by
  intro s herr hst
  have hc : s.accessCheck = none := State.accessCheck_eq_none.2 ⟨herr, hst⟩
  refine ⟨fun hC a r d data count => ?_, fun hC i hi => ?_⟩
  · have hwrite : ∀ len, s.writeFits len = false := fun len =>
      Bool.eq_false_iff.2 fun h => by have := (State.writeFits_iff len).1 h; omega
    have hread : ∀ n, s.readFits n = false := fun n =>
      Bool.eq_false_iff.2 fun h => by have := (State.readFits_iff n).1 h; omega
    simp only [exec, execWriteByte, execWriteBytes, execReadByte, execReadBytes, hwrite, hread,
      State.enqueue_overflow hc, and_self]
  · cases i with
    | writeByte a r d =>
      refine ⟨_, rfl, (State.enqueue_resp_iff hc _ (o := .txOverflow) nofun _ _).trans ?_⟩
      rw [State.writeFits_iff, hC]
      simp
    | writeBytes a r data =>
      refine ⟨_, rfl, (State.enqueue_resp_iff hc _ (o := .txOverflow) nofun _ _).trans ?_⟩
      rw [State.writeFits_iff, hC]
      simp
    | readByte a r =>
      refine ⟨_, rfl, (State.enqueue_resp_iff hc _ (o := .rxOverflow) nofun _ _).trans ?_⟩
      rw [State.readFits_iff, hC]
      simp
    | readBytes a r count =>
      refine ⟨_, rfl, (State.enqueue_resp_iff hc _ (o := .rxOverflow) nofun _ _).trans ?_⟩
      have hfit : ¬ (2 > 2 ∨ 1 + countOf count > 2) ↔ count.toNat ≤ 1 := by
        unfold countOf
        omega
      rw [State.readFits_iff, hC, hfit]
      simp
    | _ => exact absurd hi nofun

/-- Settles O19: the meanings of the single-byte forms are those of the multi-byte forms, term for term. -/
theorem singleByteForms : Obligations.SingleByteForms := fun _ _ _ _ => ⟨rfl, rfl⟩

/-! ### FETCH_RESULT past the buffer (R50, R52) -/

/-- Settles O21: the range of captured bytes leaves the buffer. -/
theorem fetchResultPastBufferFaults : Obligations.FetchResultPastBufferFaults := by
  intro n s herr hst hC hn
  have hc : s.accessCheck = none := State.accessCheck_eq_none.2 ⟨herr, hst⟩
  have hzero : s.rxCount ≠ 0 := by omega
  have hrange : s.memReadRange 0 s.rxCount = none := by
    rw [← Option.not_isSome_iff_eq_none, s.memReadRange_isSome]
    omega
  simp [exec, execFetchResult, hc, hzero, countOf, Nat.not_lt.2 hn, hrange]

/-! ### Events (R160, R161, R176, R177, R52) -/

section
variable {s : State} {coll nack : Bool} {rxb : Byte}

theorem exec_event_undelivered (h : ¬ s.deliverable) : exec (.event coll nack rxb) s = .next s.resting := by
  have hdel : s.delivers = false := Bool.eq_false_iff.2 fun hd => h (State.delivers_iff.1 hd)
  simp [exec, execEvent_eq, hdel]

theorem exec_event_collision (hd : s.deliverable) :
    exec (.event true nack rxb) s = .next s.answered.collisionStep := by
  simp [exec, execEvent_eq, State.delivers_iff.2 hd]

theorem State.answered_collisionStep_disabled (hst : s.state = .disabled) :
    s.answered.collisionStep = s.answered := by
  simp [State.collisionStep, hst]

theorem exec_event_error (hd : s.deliverable) (hst : s.state = .error) :
    exec (.event false nack rxb) s = .next s.answered := by
  simp [exec_event_delivered hd, State.rowStep, hst]

theorem exec_event_disabled (hd : s.deliverable) (hst : s.state = .disabled) :
    exec (.event coll nack rxb) s = .next s.answered := by
  cases coll with
  | false => simp [exec_event_delivered hd, State.rowStep, hst]
  | true => rw [exec_event_collision hd, State.answered_collisionStep_disabled hst]

theorem State.answered_transmitNext_pastBuffer (hC : s.params.C ≤ s.cursor) :
    s.answered.transmitNext = s.afterError .internal := by
  have hb : s.answered.memRead s.cursor = none := State.memRead_eq_none.2 hC
  simp [State.transmitNext, hb, State.answered_enterError]

end

/-- Settles O30: an event that is not delivered sets the output ports to rest. -/
theorem undeliveredEventChangesNothing : Obligations.UndeliveredEventChangesNothing := fun _ _ _ _ h =>
  exec_event_undelivered h

/-- Settles O33: the three ends of the collision step, which comes before every row. -/
theorem collisionOverrides : Obligations.CollisionOverrides := by
  intro nack rxb s hd
  rw [exec_event_collision hd]
  rcases s.collisionStep_cases with ⟨hst, h⟩ | ⟨hst, h⟩ | ⟨hdis, herr, h⟩
  · rw [h]
    exact ⟨fun _ => rfl, fun he => absurd (hst.symm.trans he) nofun, fun hne => absurd hst hne⟩
  · rw [h]
    exact ⟨fun he => absurd (hst.symm.trans he) nofun, fun _ => rfl, fun _ hne => absurd hst hne⟩
  · rw [h]
    exact ⟨fun he => absurd he hdis, fun he => absurd he herr, fun _ _ => rfl⟩

/-- Settles O46: a delivered event meets a row that leaves the answered state as it is. -/
theorem errorAndDisabledIgnoreEvents : Obligations.ErrorAndDisabledIgnoreEvents := by
  intro coll nack rxb s hst
  refine ⟨fun hd => ?_, exec_event_undelivered⟩
  rcases hst with ⟨hst, rfl⟩ | hst
  · exact exec_event_error hd hst
  · exact exec_event_disabled hd hst

/-- Settles O47: the three transmit rows share their transmit, whose read finds no byte. -/
theorem transmitPastBufferIsInternal : Obligations.TransmitPastBufferIsInternal := by
  intro rxb s hd hst hlt hC
  rcases or_assoc.2 hst with hst | hst
  · rw [exec_event_conditionDone hd hst, if_neg (Nat.not_le.2 hlt), State.answered_transmitNext_pastBuffer hC]
  · rw [exec_event_transmittingData hd hst, State.answered_byteSent_more hlt,
      State.answered_transmitNext_pastBuffer hC]

/-! ### Several cores (R217) -/

/-- Settles O59: a step sets one entry of the list of records. -/
theorem instancesIndependent : Obligations.InstancesIndependent := by
  intro k y z h
  unfold System.stepAt at h
  split at h
  · exact absurd h nofun
  · next s hs =>
    split at h
    · next t ht =>
      obtain rfl := Host.Outcome.next.inj (Option.some.inj h)
      have hk : k < y.insts.length := (List.getElem?_eq_some_iff.1 hs).1
      exact ⟨⟨s, t, hs, ht, List.getElem?_set_self hk⟩, List.length_set,
        fun j hj => List.getElem?_set_ne hj.symm⟩
    · exact absurd h nofun
    · exact absurd h nofun

end Sys2Proof.Machine

/-! Whole runs (spec/42_event_sequencer.md R182, spec/70_reset_and_hazards.md R235): runs of `step` by their first step,
the hang of a masked core, and the two transactions as a chain of rows, each a step that emits one command and leaves
the core in the transaction, up to the stop's end. -/

namespace Sys2Proof.Machine

/-! ### A run by its first step -/

section
variable {s u : State}

theorem runSteps_succ (h : step s = .next u) (k : Nat) : runSteps (k + 1) s = runSteps k u := by
  simp [runSteps, h]

theorem runCommands_succ_silent (h : step s = .next u) (hc : u.cmd = .none) (k : Nat) :
    runCommands (k + 1) s = runCommands k u := by
  simp [runCommands, h, hc]

theorem runCommands_succ_emit (h : step s = .next u) (hc : u.cmd ≠ .none) (k : Nat) :
    runCommands (k + 1) s = u.cmd :: runCommands k u := by
  simp [runCommands, h, hc]

end

/-! ### The masked core (R235) -/

theorem step_masked_event {s : State} {w : EventWord} {rest : List PortInput} (hmask : s.bcOn = false)
    (hs : s.inputs = .event w :: rest) : step s = .next (s.take rest).resting := by
  have hnd : ¬ (s.take rest).deliverable := fun hd => absurd (hd.1.symm.trans hmask) nofun
  rw [step_of_decode hs rfl]
  exact exec_event_undelivered hnd

/-- Settles O56: by induction on the presented events, each taken off the port undelivered. -/
theorem maskedStartHangs : Obligations.MaskedStartHangs := by
  intro evs
  induction evs with
  | nil =>
    intro s _ _ hin
    refine ⟨⟨s, rfl, ?_⟩, rfl⟩
    rw [← show s.inputs = [] from hin]
    rfl
  | cons w evs ih =>
    intro s hmask hst hin
    have hstep := step_masked_event hmask hin
    obtain ⟨⟨t, hrun, ht⟩, hcmds⟩ := ih (s.take (evs.map .event)).resting hmask hst rfl
    exact ⟨⟨t, (runSteps_succ hstep _).trans hrun, ht⟩, (runCommands_succ_silent hstep rfl _).trans hcmds⟩

/-! ### A chain of commands -/

/-- From `s` the steps to `t` emit `cs`, one command each, and none of them ends in `Idle`. -/
inductive Emits : List Command → State → State → Prop
  | nil (s : State) : Emits [] s s
  | cons {c : Command} {cs : List Command} {s u t : State} (hstep : step s = .next u) (hcmd : u.cmd = c)
      (hne : c ≠ .none) (hst : u.state ≠ .idle) (hrest : Emits cs u t) : Emits (c :: cs) s t

theorem Emits.append {cs ds : List Command} {s t u : State} (h : Emits cs s t) (h' : Emits ds t u) :
    Emits (cs ++ ds) s u := by
  induction h with
  | nil => exact h'
  | cons hstep hcmd hne hst _ ih => exact .cons hstep hcmd hne hst (ih h')

/-- After a chain and one silent step: the end, that no earlier state is at rest, and the commands of the run. -/
theorem Emits.run {cs : List Command} {s t z : State} (h : Emits cs s t) (hz : step t = .next z) (hc : z.cmd = .none) :
    runSteps (cs.length + 1) s = some z ∧ (∀ k < cs.length, ∃ u, runSteps (k + 1) s = some u ∧ u.state ≠ .idle) ∧
      runCommands (cs.length + 1) s = cs := by
  induction h with
  | nil =>
    refine ⟨?_, nofun, ?_⟩
    · exact runSteps_succ hz 0
    · exact runCommands_succ_silent hz hc 0
  | cons hstep hcmd hne hst _ ih =>
    obtain ⟨hend, hbusy, hcmds⟩ := ih hz
    refine ⟨(runSteps_succ hstep _).trans hend, fun k hk => ?_, ?_⟩
    · rw [runSteps_succ hstep]
      cases k with
      | zero => exact ⟨_, rfl, hst⟩
      | succ k => exact hbusy k (Nat.lt_of_succ_lt_succ hk)
    · rw [List.length_cons, runCommands_succ_emit hstep (hcmd ▸ hne), hcmds, hcmd]

/-! ### One row, as a step that takes a clean event off the port -/

/-- The core in `d`, an operation outstanding, with the clean events of `es` to come. -/
structure State.Awaits (s : State) (d : DriverState) (es : List Byte) : Prop where
  state   : s.state = d
  mask    : s.bcOn = true
  waiting : s.outstanding ≠ none
  inputs  : s.inputs = es.map cleanEvent

/-- `s` after a row that emits `c` and goes to `d`, the events `es` still to come. -/
def State.advance (s : State) (d : DriverState) (c : Command) (es : List Byte) : State :=
  { s.answered with state := d, cmd := c, outstanding := kindOf c, inputs := es.map cleanEvent }

theorem State.advance_awaits {s : State} {d : DriverState} {c : Command} {es : List Byte} (hmask : s.bcOn = true)
    (hc : kindOf c ≠ none) : (s.advance d c es).Awaits d es :=
  ⟨rfl, hmask, hc, rfl⟩

/-- A row that emits a command and stays in the transaction begins a chain. -/
theorem Emits.advance {s s' t : State} {d : DriverState} {c : Command} {cs : List Command} {es : List Byte}
    (hstep : step s = .next (s'.advance d c es)) (hc : c ≠ .none) (hd : d ≠ .idle)
    (hrest : Emits cs (s'.advance d c es) t) : Emits (c :: cs) s t :=
  .cons hstep rfl hc hd hrest

section
variable {s : State} {d : DriverState} {e : Byte} {es : List Byte}

theorem decode_cleanEvent (e : Byte) : decode (cleanEvent e) = .ok (.event false false e) :=
  congrArg Except.ok (decodeEvent_eventWord false false e)

theorem State.Awaits.step (h : s.Awaits d (e :: es)) :
    step s = exec (.event false false e) (s.take (es.map cleanEvent)) :=
  step_of_decode h.inputs (decode_cleanEvent e)

theorem State.Awaits.deliverable (h : s.Awaits d (e :: es)) : (s.take (es.map cleanEvent)).deliverable :=
  ⟨h.mask, .inl h.waiting⟩

/-- R165, R166, R168. -/
theorem State.Awaits.step_sent (h : s.Awaits d (e :: es)) {b : Byte}
    (hd : (d = .sendingStart ∨ d = .sendingRestart) ∨ d = .transmittingData) (hlt : s.cursor < s.length)
    (hb : s.memRead s.cursor = some b) :
    Machine.step s = .next (({ s with cursor := s.cursor + 1 } : State).advance .transmittingData (.tx b) es) := by
  have hread : (s.take (es.map cleanEvent)).memRead (s.take (es.map cleanEvent)).cursor = some b := hb
  have hcur : ¬ (s.take (es.map cleanEvent)).length ≤ (s.take (es.map cleanEvent)).cursor := Nat.not_le.2 hlt
  rw [h.step]
  rcases hd with hd | hd
  · rw [exec_event_conditionDone h.deliverable (h.state.symm ▸ hd), if_neg hcur,
      State.answered_transmitNext hread]
    rfl
  · rw [exec_event_transmittingData h.deliverable (h.state.trans hd), State.answered_byteSent_more (Nat.not_le.1 hcur),
      State.answered_transmitNext hread]
    rfl

/-- R169. -/
theorem State.Awaits.step_written (h : s.Awaits .transmittingData (e :: es)) (heq : s.cursor = s.length)
    (herc : s.erc = 0) : Machine.step s = .next (s.advance .sendingStop .stop es) := by
  rw [h.step, exec_event_transmittingData h.deliverable h.state,
    State.answered_byteSent_written (s := s.take (es.map cleanEvent)) heq herc]
  rfl

/-- `s` after the turnaround (R170): byte 0, the address, has its read bit and is the only byte to send. -/
def State.turnedAround (s : State) (b : Byte) : State :=
  { s with buf := s.buf.write 0 (withReadBit b), length := 1, cursor := 0 }

/-- R170. -/
theorem State.Awaits.step_turned (h : s.Awaits .transmittingData (e :: es)) {b : Byte} (heq : s.cursor = s.length)
    (herc : 0 < s.erc) (hb : s.memRead 0 = some b) (hr : readBit b = false) :
    Machine.step s = .next ((s.turnedAround b).advance .sendingRestart .restart es) := by
  have hread : (s.take (es.map cleanEvent)).memRead 0 = some b := hb
  rw [h.step, exec_event_transmittingData h.deliverable h.state,
    State.answered_byteSent_readDue (s := s.take (es.map cleanEvent)) heq herc,
    State.answered_turnOrReceive_write hread hr]
  rfl

/-- R171. -/
theorem State.Awaits.step_addressed (h : s.Awaits .transmittingData (e :: es)) {b : Byte} (heq : s.cursor = s.length)
    (herc : 0 < s.erc) (hb : s.memRead 0 = some b) (hr : readBit b = true) :
    Machine.step s = .next (({ s with cursor := 0 } : State).advance .receivingData .rxen es) := by
  have hread : (s.take (es.map cleanEvent)).memRead 0 = some b := hb
  rw [h.step, exec_event_transmittingData h.deliverable h.state,
    State.answered_byteSent_readDue (s := s.take (es.map cleanEvent)) heq herc,
    State.answered_turnOrReceive_read hread hr]
  rfl

/-- `s` with the byte `e` stored at `cursor` and counted (R173). -/
def State.storing (s : State) (e : Byte) : State :=
  { s with buf := s.buf.write s.cursor e, cursor := s.cursor + 1, rxCount := s.rxCount + 1 }

/-- R173, the last byte. -/
theorem State.Awaits.step_last (h : s.Awaits .receivingData (e :: es)) (hC : s.cursor < s.params.C)
    (hlast : s.cursor + 1 = s.erc) : Machine.step s = .next ((s.storing e).advance .sendingStop .stop es) := by
  rw [h.step, exec_event_receivingData h.deliverable h.state,
    State.answered_byteReceived_last (s := s.take (es.map cleanEvent)) hC hlast]
  rfl

/-- R173, a byte before the last. -/
theorem State.Awaits.step_stored (h : s.Awaits .receivingData (e :: es)) (hC : s.cursor < s.params.C)
    (hmore : s.cursor + 1 < s.erc) : Machine.step s = .next ((s.storing e).advance .sendingAck .ack es) := by
  rw [h.step, exec_event_receivingData h.deliverable h.state,
    State.answered_byteReceived_more (s := s.take (es.map cleanEvent)) hC (Nat.lt_of_succ_lt hmore) hmore.ne]
  rfl

/-- R174. -/
theorem State.Awaits.step_acked (h : s.Awaits .sendingAck (e :: es)) :
    Machine.step s = .next (s.advance .receivingData .rxen es) := by
  rw [h.step, exec_event_sendingAck h.deliverable h.state]
  rfl

/-- R175 without an error. -/
theorem State.Awaits.step_stopped (h : s.Awaits .sendingStop (e :: es)) (herr : s.err = .noError) :
    Machine.step s = .next (s.advance .idle .none es) := by
  have hend : ¬ (s.params.stay = true ∧ s.err ≠ .noError) := fun hne => hne.2 herr
  rw [h.step, exec_event_sendingStop h.deliverable h.state,
    State.answered_stopDone_idle (s := s.take (es.map cleanEvent)) hend]
  rfl

/-! ### The phases of a transaction -/

/-- The transmit of the bytes from `cursor` to `length`, one event each. -/
theorem State.Awaits.emits_bytes {b : Byte} {bs : List Byte} (h : s.Awaits d (e :: es))
    (hd : (d = .sendingStart ∨ d = .sendingRestart) ∨ d = .transmittingData)
    (hlen : s.cursor + (bs.length + 1) = s.length) (hes : bs.length ≤ es.length)
    (hbytes : ∀ k (hk : k < (b :: bs).length), s.memRead (s.cursor + k) = some (b :: bs)[k]) :
    ∃ c, kindOf c ≠ none ∧ Emits ((b :: bs).map .tx) s
      (({ s with cursor := s.length } : State).advance .transmittingData c (es.drop bs.length)) := by
  induction bs generalizing s d b e es with
  | nil =>
    have hstep := h.step_sent hd (by omega) (hbytes 0 (Nat.zero_lt_succ _))
    have hend : ({ s with cursor := s.cursor + 1 } : State) = { s with cursor := s.length } :=
      congrArg (fun n => ({ s with cursor := n } : State)) hlen
    rw [hend] at hstep
    exact ⟨.tx b, nofun, .advance hstep nofun nofun (.nil _)⟩
  | cons b' bs ih =>
    have hstep := h.step_sent hd (by omega) (hbytes 0 (Nat.zero_lt_succ _))
    obtain ⟨e', es, rfl⟩ := List.exists_cons_of_length_pos (Nat.lt_of_lt_of_le (Nat.zero_lt_succ _) hes)
    have hnext : (({ s with cursor := s.cursor + 1 } : State).advance .transmittingData (.tx b) (e' :: es)).Awaits
        .transmittingData (e' :: es) := State.advance_awaits h.mask nofun
    have hlen' : s.cursor + 1 + (bs.length + 1) = s.length := by
      rw [← hlen, List.length_cons]
      omega
    have hbytes' : ∀ k (hk : k < (b' :: bs).length), s.memRead (s.cursor + 1 + k) = some (b' :: bs)[k] := by
      intro k hk
      rw [Nat.add_right_comm, Nat.add_assoc]
      exact hbytes (k + 1) (Nat.succ_lt_succ hk)
    obtain ⟨c, hc, hrest⟩ := ih hnext (.inr rfl) hlen' (Nat.le_of_succ_le_succ hes) hbytes'
    exact ⟨c, hc, .advance hstep nofun nofun hrest⟩

/-- The receive phase from `cursor` on with `m` bytes to acknowledge before the last: every second event carries a
byte, and the bytes before `cursor` stay. -/
theorem State.Awaits.emits_received {m : Nat} (h : s.Awaits .receivingData es) (hm : s.cursor + m + 1 = s.erc)
    (hcount : s.cursor = s.rxCount) (hC : s.erc ≤ s.params.C) (hes : 2 * m + 1 ≤ es.length) :
    ∃ mem : Memory, Emits ((List.replicate m [Command.ack, .rxen]).flatten ++ [.stop]) s
        (({ s with buf := mem, cursor := s.erc, rxCount := s.erc } : State).advance .sendingStop .stop
          (es.drop (2 * m + 1))) ∧
      (∀ k ≤ m, mem.lookup (s.cursor + k) = es[2 * k]?) ∧ ∀ j < s.cursor, mem.lookup j = s.buf.lookup j := by
  induction m generalizing s es with
  | zero =>
    obtain ⟨e, es, rfl⟩ := List.exists_cons_of_length_pos hes
    have hstep := h.step_last (by omega) hm
    have hend : s.storing e = { s with buf := s.buf.write s.cursor e, cursor := s.erc, rxCount := s.erc } := by
      have hrx : s.rxCount + 1 = s.erc := hcount ▸ hm
      have hcur : s.cursor + 1 = s.erc := hm
      rw [State.storing, hrx, hcur]
    rw [hend] at hstep
    refine ⟨s.buf.write s.cursor e, .advance hstep nofun nofun (.nil _), fun k hk => ?_,
      fun j hj => Memory.lookup_write_other hj.ne e s.buf⟩
    obtain rfl := Nat.le_zero.1 hk
    exact Memory.lookup_write_self s.cursor e s.buf
  | succ m ih =>
    obtain ⟨e, e', es, rfl⟩ : ∃ e e' es', es = e :: e' :: es' := by
      match es, hes with
      | e :: e' :: es', _ => exact ⟨e, e', es', rfl⟩
    have hstored := h.step_stored (by omega) (by omega)
    have hack : ((s.storing e).advance .sendingAck .ack (e' :: es)).Awaits .sendingAck (e' :: es) :=
      State.advance_awaits h.mask nofun
    have hnext : ((s.storing e).advance .receivingData .rxen es).Awaits .receivingData es :=
      State.advance_awaits h.mask nofun
    have hm' : s.cursor + 1 + m + 1 = s.erc := by omega
    obtain ⟨mem, hrest, hnew, hold⟩ := ih hnext hm' (congrArg (· + 1) hcount) hC
      (by simp only [List.length_cons] at hes; omega)
    refine ⟨mem, .advance hstored nofun nofun (.advance hack.step_acked nofun nofun hrest), fun k hk => ?_,
      fun j hj => ?_⟩
    · cases k with
      | zero => exact (hold s.cursor (Nat.lt_succ_self _)).trans (Memory.lookup_write_self s.cursor e s.buf)
      | succ k =>
        have hk' := hnew k (Nat.le_of_succ_le_succ hk)
        rw [← Nat.add_assoc, Nat.add_right_comm]
        exact hk'
    · exact (hold j (Nat.lt_succ_of_lt hj)).trans (Memory.lookup_write_other hj.ne e s.buf)

end

/-! ### The two transactions (R182) -/

/-- `u` is the ready core `s` after a request that loaded `bytes` with receive count `count`, the events `evs` to
come. -/
structure State.Began (s u : State) (bytes : List Byte) (count : Nat) (evs : List Byte) : Prop where
  step    : step s = .next u
  awaits  : u.Awaits .sendingStart evs
  cmd     : u.cmd = .start
  params  : u.params = s.params
  err     : u.err = .noError
  marks   : u.modelFault = s.modelFault
  length  : u.length = bytes.length
  cursor  : u.cursor = 0
  erc     : u.erc = count
  rxCount : u.rxCount = 0
  bytes   : ∀ k (hk : k < bytes.length), u.memRead k = some bytes[k]

theorem State.began_of_request {s : State} {x : PortInput} {evs bytes : List Byte} {i : Instr} {fits : Prop}
    {o : ErrCode} {count : Nat} (hready : s.ready) (hin : s.inputs = x :: evs.map cleanEvent) (hx : decode x = .ok i)
    (hi : (s.take (evs.map cleanEvent)).enqueuesAs i fits o bytes count) (hfit : fits) :
    ∃ u, s.Began u bytes count evs := by
  obtain ⟨hidle, herr, hmask, hout⟩ := hready
  obtain ⟨-, -, -, -, hload⟩ := hi
  obtain ⟨u, hexec, ⟨hst, hlen, hcur, herc, hrx⟩, ⟨hcmd, hwait, -, -⟩, hmarks, -, ⟨hp, herr', hmask', hin'⟩,
    hbytes, -⟩ := hload herr hidle hfit
  exact ⟨u, (step_of_decode hin hx).trans hexec,
    ⟨hst, hmask'.trans hmask, fun hno => absurd (hwait.symm.trans hno) nofun, hin'⟩, hcmd, hp, herr'.trans herr,
    hmarks hout, hlen, hcur, herc, hrx, hbytes⟩

section
variable {s u : State}

/-- A chain up to the stop, and the event that ends the stop. -/
theorem Emits.transaction {cs : List Command} {e : Byte} {n : Nat}
    (h : Emits cs s (u.advance .sendingStop .stop [e])) (hmask : u.bcOn = true) (herr : u.err = .noError)
    (hn : cs.length = n) :
    runSteps (1 + n) s = some (u.advance .idle .none []) ∧ (u.advance .idle .none []).ready ∧
      (∀ k < n, ∃ t, runSteps (1 + k) s = some t ∧ t.state ≠ .idle) ∧ runCommands (1 + n) s = cs := by
  subst hn
  have hstop : (u.advance .sendingStop .stop [e]).Awaits .sendingStop [e] := State.advance_awaits hmask nofun
  obtain ⟨hend, hbusy, hcmds⟩ := h.run (hstop.step_stopped herr) rfl
  rw [Nat.add_comm 1]
  exact ⟨hend, ⟨rfl, herr, hmask, rfl⟩, fun k hk => Nat.add_comm 1 k ▸ hbusy k hk, hcmds⟩

/-- The load and the transmit of all of its bytes. -/
theorem State.Began.emits_bytes {b : Byte} {bs : List Byte} {count : Nat} {e : Byte} {es : List Byte}
    (h : s.Began u (b :: bs) count (e :: es)) (hes : bs.length ≤ es.length) :
    ∃ c, kindOf c ≠ none ∧ Emits (.start :: (b :: bs).map .tx) s
      (({ u with cursor := u.length } : State).advance .transmittingData c (es.drop bs.length)) := by
  have hlen : u.cursor + (bs.length + 1) = u.length := by
    rw [h.cursor, h.length, Nat.zero_add, List.length_cons]
  have hbytes : ∀ k (hk : k < (b :: bs).length), u.memRead (u.cursor + k) = some (b :: bs)[k] := by
    intro k hk
    rw [h.cursor, Nat.zero_add]
    exact h.bytes k hk
  obtain ⟨c, hc, hrest⟩ := h.awaits.emits_bytes (.inl (.inl rfl)) hlen hes hbytes
  exact ⟨c, hc, .cons h.step h.cmd nofun (h.awaits.state.trans_ne nofun) hrest⟩

/-- A write: the load, its bytes, the stop. -/
theorem State.Began.write_run {b : Byte} {bs evs : List Byte} (h : s.Began u (b :: bs) 0 evs)
    (hn : evs.length = bs.length + 3) :
    (∃ t, runSteps (1 + evs.length) s = some t ∧ t.ready ∧ t.inputs = [] ∧ t.modelFault = s.modelFault) ∧
      (∀ k < evs.length, ∃ t, runSteps (1 + k) s = some t ∧ t.state ≠ .idle) ∧
      runCommands (1 + evs.length) s = .start :: (b :: bs).map .tx ++ [.stop] := by
  obtain ⟨e, es, rfl⟩ := List.exists_cons_of_length_eq_add_one hn
  have hes : es.length = bs.length + 2 := Nat.succ.inj hn
  obtain ⟨c, hc, hsent⟩ := h.emits_bytes (by omega)
  obtain ⟨e₁, e₂, hdrop⟩ : ∃ e₁ e₂, es.drop bs.length = [e₁, e₂] :=
    List.length_eq_two.1 (by rw [List.length_drop]; omega)
  rw [hdrop] at hsent
  have htx : (({ u with cursor := u.length } : State).advance .transmittingData c [e₁, e₂]).Awaits
      .transmittingData [e₁, e₂] := State.advance_awaits h.awaits.mask hc
  have hwritten := htx.step_written rfl h.erc
  obtain ⟨hend, hready, hbusy, hcmds⟩ := (hsent.append (.advance hwritten nofun nofun (.nil _))).transaction
    h.awaits.mask h.err (n := (e :: es).length) (by simp [hes])
  exact ⟨⟨_, hend, hready, rfl, h.marks⟩, hbusy, hcmds⟩

/-- The first half of a read: the load, its two bytes, the turnaround, the read address, the reception. -/
theorem State.Began.emits_addressed {b r : Byte} {count : Nat} {e₀ e₁ e₂ e₃ e₄ : Byte} {es : List Byte}
    (h : s.Began u [b, r] count (e₀ :: e₁ :: e₂ :: e₃ :: e₄ :: es)) (hcount : 0 < count)
    (hC : 0 < u.params.C) (hr : readBit b = false) :
    Emits [.start, .tx b, .tx r, .restart, .tx (withReadBit b), .rxen] s
      ((u.turnedAround b).advance .receivingData .rxen es) := by
  obtain ⟨c, hc, hsent⟩ := h.emits_bytes (by simp)
  have herc : 0 < u.erc := h.erc ▸ hcount
  have htx : (({ u with cursor := u.length } : State).advance .transmittingData c (e₂ :: e₃ :: e₄ :: es)).Awaits
      .transmittingData (e₂ :: e₃ :: e₄ :: es) := State.advance_awaits h.awaits.mask hc
  have hturned := htx.step_turned rfl herc (h.bytes 0 (Nat.zero_lt_succ _)) hr
  have hbyte : (u.turnedAround b).memRead 0 = some (withReadBit b) := State.memRead_of_buf_write (s := u) rfl rfl hC
  have hrestart : ((u.turnedAround b).advance .sendingRestart .restart (e₃ :: e₄ :: es)).Awaits
      .sendingRestart (e₃ :: e₄ :: es) := State.advance_awaits h.awaits.mask nofun
  have haddress := hrestart.step_sent (.inl (.inr rfl)) Nat.zero_lt_one hbyte
  have hlast : (({ u.turnedAround b with cursor := 1 } : State).advance .transmittingData (.tx (withReadBit b))
      (e₄ :: es)).Awaits .transmittingData (e₄ :: es) := State.advance_awaits h.awaits.mask nofun
  have haddressed := hlast.step_addressed rfl herc hbyte (readBit_withReadBit b)
  exact hsent.append (.advance hturned nofun nofun (.advance haddress nofun nofun
    (.advance haddressed nofun nofun (.nil _))))

/-- A read of `m + 1` bytes: the first half, the receptions, the stop. -/
theorem State.Began.read_run {b r : Byte} {m : Nat} {evs : List Byte} (h : s.Began u [b, r] (m + 1) evs)
    (hC : m + 2 ≤ s.params.C) (hr : readBit b = false) (hn : evs.length = 2 * (m + 1) + 5) :
    (∃ t, runSteps (1 + evs.length) s = some t ∧ t.ready ∧ t.inputs = [] ∧ t.modelFault = s.modelFault ∧
        t.rxCount = m + 1 ∧ ∀ k < m + 1, t.memRead k = evs[5 + 2 * k]?) ∧
      (∀ k < evs.length, ∃ t, runSteps (1 + k) s = some t ∧ t.state ≠ .idle) ∧
      runCommands (1 + evs.length) s = [.start, .tx b, .tx r, .restart, .tx (withReadBit b), .rxen] ++
        (List.replicate m [Command.ack, .rxen]).flatten ++ [.stop] := by
  obtain ⟨e₀, e₁, e₂, e₃, e₄, es, rfl⟩ : ∃ e₀ e₁ e₂ e₃ e₄ es, evs = e₀ :: e₁ :: e₂ :: e₃ :: e₄ :: es := by
    match evs, hn with
    | e₀ :: e₁ :: e₂ :: e₃ :: e₄ :: es, _ => exact ⟨e₀, e₁, e₂, e₃, e₄, es, rfl⟩
  have hes : es.length = 2 * m + 2 := by
    simp only [List.length_cons] at hn
    omega
  have hCu : m + 2 ≤ u.params.C := h.params ▸ hC
  have haddressed := h.emits_addressed (Nat.succ_pos m) (by omega) hr
  have hrx : ((u.turnedAround b).advance .receivingData .rxen es).Awaits .receivingData es :=
    State.advance_awaits h.awaits.mask nofun
  have herc : u.erc ≤ u.params.C := by
    rw [h.erc]
    omega
  obtain ⟨mem, hreceived, hmem, -⟩ := hrx.emits_received (m := m)
    (by change 0 + m + 1 = u.erc; rw [h.erc]; omega) h.rxCount.symm herc (by omega)
  obtain ⟨e₅, hdrop⟩ : ∃ e₅, es.drop (2 * m + 1) = [e₅] :=
    List.length_eq_one_iff.1 (by rw [List.length_drop]; omega)
  rw [hdrop] at hreceived
  obtain ⟨hend, hready, hbusy, hcmds⟩ := (haddressed.append hreceived).transaction h.awaits.mask h.err
    (n := (e₀ :: e₁ :: e₂ :: e₃ :: e₄ :: es).length) (by simp [hes]; omega)
  refine ⟨⟨_, hend, hready, rfl, h.marks, h.erc, fun k hk => ?_⟩, hbusy, hcmds⟩
  have hk' : 2 * k < es.length := by omega
  have hbyte : mem.lookup k = some es[2 * k] := by
    have hlookup : mem.lookup (0 + k) = es[2 * k]? := hmem k (Nat.le_of_lt_succ hk)
    rwa [Nat.zero_add, List.getElem?_eq_getElem hk'] at hlookup
  have hev : (e₀ :: e₁ :: e₂ :: e₃ :: e₄ :: es)[5 + 2 * k]? = some es[2 * k] := by
    rw [Nat.add_comm]
    exact List.getElem?_eq_getElem hk'
  rw [hev]
  exact State.memRead_of_lookup (show k < u.params.C by omega) hbyte

end

/-- Settles O58: the three requests load what R102 to R105 say, and the runs are those of a write and of a read. -/
theorem transactionLengths : Obligations.TransactionLengths := by
  refine ⟨fun x a r data evs s hx hready hC hwf hin hn => ?_, fun x a r count evs s hx hready hpos hC hin hn => ?_,
    fun a r evs s hready hC hin hn => ?_⟩
  · obtain ⟨u, hu⟩ : ∃ u, s.Began u (addrByte a :: r :: data) 0 evs := by
      rcases hx with rfl | ⟨d, rfl, rfl⟩
      · exact State.began_of_request hready hin (decodeOfEncode _ hwf) (writeBytesResult a r data _) hC
      · exact State.began_of_request hready hin (decodeOfEncode _ rfl) (writeByteResult a r d _) hC
    exact hu.write_run hn
  · obtain ⟨u, hu⟩ : ∃ u, s.Began u [addrByte a, r] count.toNat evs := by
      rcases hx with rfl | ⟨rfl, rfl⟩
      · exact State.began_of_request hready hin (decodeOfEncode _ rfl) (readBytesResult a r count _) (by simp; omega)
      · exact State.began_of_request hready hin (decodeOfEncode _ rfl) (readByteResult a r _) hC
    obtain ⟨m, hm⟩ := Nat.exists_eq_add_of_le' hpos
    rw [hm] at hu hn hC ⊢
    exact hu.read_run (by omega) (readBit_addrByte a) hn
  · obtain ⟨u, hu⟩ : ∃ u, s.Began u [addrByte a, r] 0 evs :=
      State.began_of_request hready hin (decodeOfEncode _ rfl) (readBytesResult a r 0 _) (by simp; omega)
    exact hu.write_run hn

end Sys2Proof.Machine
